-- ==== Sys2Proof/Word.lean ====
section
/-!
DEFINITION. The plainest words of the block: bytes, byte sequences, texts and the two byte orders (spec 00 R7, R10, R11; 10 R37; 20 R53).
-/

namespace Sys2Proof

/-- A byte: an unsigned integer 0..255 (R10). Operation words and wire bytes are bytes. -/
abbrev Byte := BitVec 8

/-- A byte sequence in wire order, the first element first on the wire (R11). -/
abbrev Bytes := List Byte

/-- A text: a sequence of character codes, natural numbers (R37). -/
abbrev Text := List Nat

/-- A flag set: a sequence of Booleans of any length (R37). -/
abbrev FlagSet := List Bool

/-- The two byte orders of a multi-byte value that parameter `PRIM_BYTE_ORDER` may name (R53). -/
inductive ByteOrder where
  | littleEndian
  | bigEndian
  deriving DecidableEq, Repr, Inhabited

/-- The preamble symbol (R7). -/
def preambleSymbol : Byte := 0xFF#8

/-- The first command byte that announces a second one (R7, R77). -/
def extensionByte : Byte := 0xFE#8

end Sys2Proof
end

