-- ==== Sys2Proof/Syntax.lean ====
section
/-!
DEFINITION. The operations of the block as data: the value domains of 10_state.md R34 to R37, the typed operands of
30_encoding.md R83 and one constructor of `Instr` per mnemonic of the opcode table (R81).
-/

namespace Sys2Proof

/-- FrameFormat (R34): a 1-byte or a 5-byte device address. -/
inductive Format where
  | short
  | long
  deriving DecidableEq, Repr, Inhabited

/-- The mode selector: the three limiter modes (R34, D6). -/
inductive Mode where
  | batch
  | onDemand
  | acknowledge
  deriving DecidableEq, Repr, Inhabited

/-- The wire form of a command (R34, R77): one byte, or FE and one byte. -/
inductive CommandField where
  | single (c0 : Byte)
  | extended (c1 : Byte)
  deriving DecidableEq, Repr

/-- The operand of SER (R35). Nothing is checked: the address may have any length and the preamble any count. -/
structure Request where
  preamble : Nat
  fmt : Format
  mode : Mode
  address : Bytes
  command : Nat
  data : Bytes
  deriving DecidableEq, Repr

/-- A date: a triple of integers, with no time component (R37). -/
structure Date where
  day : Int
  month : Int
  year : Int
  deriving DecidableEq, Repr

/-- A typed primitive value (R37): an operand of ENC or a result of DEC. Floats are bit patterns (D21). -/
inductive Value where
  | text (x : Text)
  | f32 (v : BitVec 32)
  | f64 (v : BitVec 64)
  | u16 (v : BitVec 16)
  | u32 (v : BitVec 32)
  | date (d : Date)
  | flags (f : FlagSet)
  /-- A value of a type outside the seven, which only ENC.UNSUP takes ("any value", R181). The spec gives it no
  content. DESIGN CHOICE, safe: log 15. -/
  | foreign
  deriving DecidableEq, Repr

/-- The operand issued with an operation word (R83). `absent` is the absent input of R13; an empty byte sequence is
`bytes []` and is not absent. -/
inductive Operand where
  | nothing
  | byte (b : Byte)
  | absent
  | bytes (xs : Bytes)
  | request (q : Request)
  | value (v : Value)
  deriving DecidableEq, Repr

/-- One request of the host to the block: an operation word and at most one typed operand (R80). -/
structure Issue where
  word : Byte
  operand : Operand
  deriving DecidableEq, Repr

/-- What an operation word names (R81, R82). The type tag of an unsupported type is kept: it is reported (R181, R191). -/
inductive Opcode where
  | fpush | freset
  | deser | ser | errtxt
  | encText | encF32 | encF64 | encU16 | encU32 | encDate | encFlags | encUnsup (tag : BitVec 4)
  | decText | decF32 | decF64 | decU16 | decU32 | decDate | decFlags | decUnsup (tag : BitVec 4)
  deriving DecidableEq, Repr

/-- An operation with its operand: the instruction set of the block (R81). An `Option` operand is `none` for the absent
input (R13, R83). The two opcode-table rows of ENC.UNSUP (and of DEC.UNSUP) are one operation with its tag. -/
inductive Instr where
  | fpush (b : Byte)
  | freset
  | deser (raw : Option Bytes)
  | ser (q : Request)
  | errtxt (c : Byte)
  | encText (x : Option Text)
  | encF32 (v : Option (BitVec 32))
  | encF64 (v : Option (BitVec 64))
  | encU16 (v : Option (BitVec 16))
  | encU32 (v : Option (BitVec 32))
  | encDate (d : Option Date)
  | encFlags (f : Option FlagSet)
  | encUnsup (tag : BitVec 4) (v : Option Value)
  | decText (xs : Option Bytes)
  | decF32 (xs : Option Bytes)
  | decF64 (xs : Option Bytes)
  | decU16 (xs : Option Bytes)
  | decU32 (xs : Option Bytes)
  | decDate (xs : Option Bytes)
  | decFlags (xs : Option Bytes)
  | decUnsup (tag : BitVec 4) (xs : Option Bytes)
  deriving DecidableEq, Repr

end Sys2Proof
end

