-- ==== Sys2Proof/Config.lean ====
section
/-!
DEFINITION. The parameters of 00_scope.md R8, fixed for a run (R32, R263): the two the spec gives a value, and the open ones
as constants without a body, of which nothing can be proved.
-/

namespace Sys2Proof

/-- An entry of the error-description table (R8, R156, C9). -/
inductive TableEntry where
  | mapped (text : Text)
  | unmapped
  deriving DecidableEq, Repr, Inhabited

/-- `PRIM_BYTE_ORDER`: the spec's value (R8, R53, D3). Unsafe if the block is big-endian: log 7. -/
def Config.primByteOrder : ByteOrder := .littleEndian

/-- `INCLUDE_REQUEST_PAYLOAD`: the spec's value (R8, R150, D8). Unsafe if the block omits the payload: log 8. -/
def Config.includeRequestPayload : Bool := true

/-- `EXT_CMD_BYTE` (R8, D7): the second command byte SER writes for a command number n ≥ 254. OPEN: log 9. -/
opaque Config.extCmdByte : Nat → Byte

/-- `EXT_CMD_VALUE` (R8, D7): the command number DESER reads from the second byte of an extended command. OPEN: log 9. -/
opaque Config.extCmdValue : Byte → Nat

/-- `ERROR_TABLE` (R8, D15): the error-description table on response-code byte 0. OPEN: log 10. -/
opaque Config.errorTable : Byte → TableEntry

/-- `UNKNOWN_ERROR_TEXT` (R8, D15): the generic text of an unmapped code. OPEN: log 10. -/
opaque Config.unknownErrorText : Text

/-- `NONASCII_ENC` (R8, D20): the byte written for a character code ≥ 0x80. OPEN: log 11. -/
opaque Config.nonasciiEnc : Nat → Byte

/-- `NONASCII_DEC` (R8, D20): the character code produced for a text byte ≥ 0x80. OPEN: log 11. -/
opaque Config.nonasciiDec : Byte → Nat

/-- The value field `fmt` holds in the reset state S0, which the spec leaves unspecified and unobservable (R23, R28, I1).
A free value: DESIGN CHOICE, log 1. -/
opaque Config.resetFmt : Format

/-- What DESER answers on the absent operand, which R83's `format` column admits and for which no rule states a result: it
answers as on this byte sequence, so that the answer is any one that R130 and R221 allow DESER, the same every time (R57). A
free value: DESIGN CHOICE, log 28. -/
opaque Config.absentFrame : Bytes

/-- The three bytes (R7) that ENC.DATE writes for a triple that is no calendar date, for which R179 states no result and R221
no error. A free value: DESIGN CHOICE, log 29. -/
opaque Config.nonDateBytes : Date → Byte × Byte × Byte

end Sys2Proof
end

