-- ==== Sys2Proof/Machine/Operands.lean ====
section
/-!
DEFINITION. The forms operands and wire fields take: multi-byte values (20_memory.md R53), texts (42 R174, R184), flag sets (R180,
R190), the address length (R76), the preamble run and the checksum fold (R11, R79).
-/

namespace Sys2Proof.Machine

/-- The byte order the primitives use (R53): the parameter's value. -/
def wireOrder : ByteOrder := Config.primByteOrder

/-- The low `n` bytes of `v`, least significant first. -/
def leBytes : Nat → Nat → Bytes
  | 0, _ => []
  | n + 1, v => BitVec.ofNat 8 v :: leBytes n (v / 256)

/-- The number whose bytes are `xs`, least significant first. -/
def leValue : Bytes → Nat
  | [] => 0
  | b :: bs => b.toNat + 256 * leValue bs

/-- `toBytes_n(v)` (R53). -/
def toBytes (order : ByteOrder) (n v : Nat) : Bytes :=
  match order with
  | .littleEndian => leBytes n v
  | .bigEndian => (leBytes n v).reverse

/-- `fromBytes_n(xs)` (R53). -/
def fromBytes (order : ByteOrder) (xs : Bytes) : Nat :=
  match order with
  | .littleEndian => leValue xs
  | .bigEndian => leValue xs.reverse

/-- The byte of a character code: the code itself below 0x80, else `NONASCII_ENC` (R174, D20). -/
def charByte (c : Nat) : Byte := if c < 0x80 then BitVec.ofNat 8 c else Config.nonasciiEnc c

/-- The character code of a byte: the byte itself below 0x80, else `NONASCII_DEC` (R184, D20). -/
def byteChar (b : Byte) : Nat := if b.toNat < 0x80 then b.toNat else Config.nonasciiDec b

/-- The sum over i of 2^i for each set flag i (R180, D18). -/
def flagSum : FlagSet → Nat
  | [] => 0
  | f :: fs => (if f then 1 else 0) + 2 * flagSum fs

/-- The one byte of a flag set of at most 8 flags (R180). -/
def flagByte (f : FlagSet) : Byte := BitVec.ofNat 8 (flagSum f)

/-- The 8 flags of a byte: flag i is bit i (R190). -/
def byteFlags (b : Byte) : FlagSet := (List.range 8).map fun i => b.getLsbD i

/-- `alen(fmt)`: the number of address bytes (R34, R76). -/
def addressLength : Format → Nat
  | .short => 1
  | .long => 5

/-- `replicate(n, 0xFF)` (R26, R146). -/
def preambleRun (n : Nat) : Bytes := List.replicate n preambleSymbol

/-- The count of leading preamble symbols (R131). -/
def preambleCount : Bytes → Nat
  | [] => 0
  | b :: bs => if b = preambleSymbol then preambleCount bs + 1 else 0

/-- `XORFOLD(xs)` (R11, R79). -/
def xorFold : Bytes → Byte
  | [] => 0#8
  | b :: bs => b ^^^ xorFold bs

end Sys2Proof.Machine
end

