-- ==== Sys2Proof/Machine/Flags.lean ====
section
/-!
DEFINITION. What the limiter byte encodes (30_encoding.md R72 to R75). The block has no condition flags; the flag-like values
are the fields `fmt` and `isBatchMode` of a Response, both read from the limiter (R31).
-/

namespace Sys2Proof.Machine

/-- `LIMITER(fmt, mode)`: the limiter table (R72). -/
def limiterByte : Format → Mode → Byte
  | .short, .batch => 0x01#8
  | .long, .batch => 0x81#8
  | .short, .onDemand => 0x06#8
  | .long, .onDemand => 0x86#8
  | .short, .acknowledge => 0x02#8
  | .long, .acknowledge => 0x82#8

/-- The six limiter values DESER recognizes (R72, R136, C1). -/
def knownLimiter (lim : Byte) : Bool :=
  lim == 0x01#8 || lim == 0x81#8 || lim == 0x06#8 || lim == 0x86#8 || lim == 0x02#8 || lim == 0x82#8

/-- The four limiter values the framer accepts (R75, C1). -/
def framerLimiter (lim : Byte) : Bool :=
  lim == 0x01#8 || lim == 0x06#8 || lim == 0x81#8 || lim == 0x86#8

/-- Limiter to format: Long if bit 7 is 1, Short if it is 0 (R73). -/
def limiterFormat (lim : Byte) : Format := if lim.getLsbD 7 then .long else .short

/-- `isBatchMode(lim)` (R74). -/
def isBatchLimiter (lim : Byte) : Bool := lim == 0x01#8 || lim == 0x81#8

/-- Limiter to mode: bits 6..0 (R73). `none` where they select none. -/
def limiterMode (lim : Byte) : Option Mode :=
  match (lim.extractLsb' 0 7).toNat with
  | 0x01 => some .batch
  | 0x06 => some .onDemand
  | 0x02 => some .acknowledge
  | _ => none

end Sys2Proof.Machine
end

