-- ==== Sys2Proof/WellFormed.lean ====
section
/-!
DEFINITION. Which instructions are well formed: those whose type tag is one of the operation's (30_encoding.md R82). Every operand is in
its domain by its type, or has a meaning all the same (a triple that is no date: log 29).
-/

namespace Sys2Proof

/-- A tag of no supported type: 7..15 (R82). -/
def unsupportedTag (tag : BitVec 4) : Bool := decide (7 ≤ tag.toNat)

/-- ENC.UNSUP and DEC.UNSUP carry a tag 7..15 (R82, R84); nothing else is asked. -/
def Instr.wf : Instr → Bool
  | .encUnsup tag _ => unsupportedTag tag
  | .decUnsup tag _ => unsupportedTag tag
  | .fpush _ | .freset | .deser _ | .ser _ | .errtxt _ => true
  | .encText _ | .encF32 _ | .encF64 _ | .encU16 _ | .encU32 _ | .encDate _ | .encFlags _ => true
  | .decText _ | .decF32 _ | .decF64 _ | .decU16 _ | .decU32 _ | .decDate _ | .decFlags _ => true

end Sys2Proof
end

