-- ==== Sys2Proof/Decode.lean ====
section
/-!
DEFINITION. The decoder of issued operations (30_encoding.md R80 to R84), total and rejecting by name; the encoder after it; the
rows of the opcode table; and the pseudo-operations of R86.
-/

namespace Sys2Proof

/-- Field `unit` of an operation word: w[7:4] (R80). -/
def unitOf (w : Byte) : BitVec 4 := w.extractLsb' 4 4

/-- Field `op` of an operation word, the type tag for units 2 and 3: w[3:0] (R80, R82). -/
def opOf (w : Byte) : BitVec 4 := w.extractLsb' 0 4

/-- The operation a word names (R81, R82); `none` for the words of R84 (a), which name no operation. -/
def opcodeOf (w : Byte) : Option Opcode :=
  match (unitOf w).toNat, (opOf w).toNat with
  | 0, 0 => some .fpush
  | 0, 1 => some .freset
  | 1, 0 => some .deser
  | 1, 1 => some .ser
  | 1, 2 => some .errtxt
  | 2, 0 => some .encText
  | 2, 1 => some .encF32
  | 2, 2 => some .encF64
  | 2, 3 => some .encU16
  | 2, 4 => some .encU32
  | 2, 5 => some .encDate
  | 2, 6 => some .encFlags
  | 2, _ => some (.encUnsup (opOf w))
  | 3, 0 => some .decText
  | 3, 1 => some .decF32
  | 3, 2 => some .decF64
  | 3, 3 => some .decU16
  | 3, 4 => some .decU32
  | 3, 5 => some .decDate
  | 3, 6 => some .decFlags
  | 3, _ => some (.decUnsup (opOf w))
  | _, _ => none

/-- Why an issued operation is not one of the block's (R84; an operand of another format is DEDUCED from R83: log 6). -/
inductive DecodeError where
  | reservedWord
  | operandKind
  deriving DecidableEq, Repr

/-- Format `OP8+value` (R83): `absent` or a value of the operation's type. -/
def takeValue {α : Type} (pick : Value → Option α) : Operand → Except DecodeError (Option α)
  | .absent => .ok none
  | .value v =>
    match pick v with
    | some x => .ok (some x)
    | none => .error .operandKind
  | _ => .error .operandKind

/-- Format `OP8+bytes` of DESER and DEC (R83): `absent` or a byte sequence. -/
def takeBytes : Operand → Except DecodeError (Option Bytes)
  | .absent => .ok none
  | .bytes xs => .ok (some xs)
  | _ => .error .operandKind

def Value.text? : Value → Option Text
  | .text x => some x
  | _ => none

def Value.f32? : Value → Option (BitVec 32)
  | .f32 v => some v
  | _ => none

def Value.f64? : Value → Option (BitVec 64)
  | .f64 v => some v
  | _ => none

def Value.u16? : Value → Option (BitVec 16)
  | .u16 v => some v
  | _ => none

def Value.u32? : Value → Option (BitVec 32)
  | .u32 v => some v
  | _ => none

def Value.date? : Value → Option Date
  | .date d => some d
  | _ => none

def Value.flags? : Value → Option FlagSet
  | .flags f => some f
  | _ => none

/-- The operation with its operand, by the operand format of the `format` column (R83). -/
def withOperand (op : Opcode) (o : Operand) : Except DecodeError Instr :=
  match op with
  | .fpush =>
    match o with
    | .byte b => .ok (.fpush b)
    | _ => .error .operandKind
  | .freset =>
    match o with
    | .nothing => .ok .freset
    | _ => .error .operandKind
  | .deser => (takeBytes o).map .deser
  | .ser =>
    match o with
    | .request q => .ok (.ser q)
    | _ => .error .operandKind
  | .errtxt =>
    match o with
    | .byte c => .ok (.errtxt c)
    | _ => .error .operandKind
  | .encText => (takeValue Value.text? o).map .encText
  | .encF32 => (takeValue Value.f32? o).map .encF32
  | .encF64 => (takeValue Value.f64? o).map .encF64
  | .encU16 => (takeValue Value.u16? o).map .encU16
  | .encU32 => (takeValue Value.u32? o).map .encU32
  | .encDate => (takeValue Value.date? o).map .encDate
  | .encFlags => (takeValue Value.flags? o).map .encFlags
  | .encUnsup tag => (takeValue some o).map (.encUnsup tag)
  | .decText => (takeBytes o).map .decText
  | .decF32 => (takeBytes o).map .decF32
  | .decF64 => (takeBytes o).map .decF64
  | .decU16 => (takeBytes o).map .decU16
  | .decU32 => (takeBytes o).map .decU32
  | .decDate => (takeBytes o).map .decDate
  | .decFlags => (takeBytes o).map .decFlags
  | .decUnsup tag => (takeBytes o).map (.decUnsup tag)

/-- The decoder, total: the operation an issue stands for, or the reason there is none. -/
def decode (x : Issue) : Except DecodeError Instr :=
  match opcodeOf x.word with
  | none => .error .reservedWord
  | some op => withOperand op x.operand

/-- The word of an operation, from the table of R81 (the tag of R82 in bits 3..0 for units 2 and 3). -/
def Opcode.word : Opcode → Byte
  | .fpush => 0x00#8
  | .freset => 0x01#8
  | .deser => 0x10#8
  | .ser => 0x11#8
  | .errtxt => 0x12#8
  | .encText => 0x20#8
  | .encF32 => 0x21#8
  | .encF64 => 0x22#8
  | .encU16 => 0x23#8
  | .encU32 => 0x24#8
  | .encDate => 0x25#8
  | .encFlags => 0x26#8
  | .encUnsup tag => 0x2#4 ++ tag
  | .decText => 0x30#8
  | .decF32 => 0x31#8
  | .decF64 => 0x32#8
  | .decU16 => 0x33#8
  | .decU32 => 0x34#8
  | .decDate => 0x35#8
  | .decFlags => 0x36#8
  | .decUnsup tag => 0x3#4 ++ tag

/-- The operation an instruction is. -/
def Instr.opcode : Instr → Opcode
  | .fpush _ => .fpush
  | .freset => .freset
  | .deser _ => .deser
  | .ser _ => .ser
  | .errtxt _ => .errtxt
  | .encText _ => .encText
  | .encF32 _ => .encF32
  | .encF64 _ => .encF64
  | .encU16 _ => .encU16
  | .encU32 _ => .encU32
  | .encDate _ => .encDate
  | .encFlags _ => .encFlags
  | .encUnsup tag _ => .encUnsup tag
  | .decText _ => .decText
  | .decF32 _ => .decF32
  | .decF64 _ => .decF64
  | .decU16 _ => .decU16
  | .decU32 _ => .decU32
  | .decDate _ => .decDate
  | .decFlags _ => .decFlags
  | .decUnsup tag _ => .decUnsup tag

/-- An optional value as the operand of ENC (R83). -/
def valueOperand : Option Value → Operand
  | none => .absent
  | some v => .value v

/-- An optional byte sequence as the operand of DESER or DEC (R83). -/
def bytesOperand : Option Bytes → Operand
  | none => .absent
  | some xs => .bytes xs

/-- The operand an instruction is issued with (R83). -/
def Instr.operand : Instr → Operand
  | .fpush b => .byte b
  | .freset => .nothing
  | .deser raw => bytesOperand raw
  | .ser q => .request q
  | .errtxt c => .byte c
  | .encText x => valueOperand (x.map .text)
  | .encF32 v => valueOperand (v.map .f32)
  | .encF64 v => valueOperand (v.map .f64)
  | .encU16 v => valueOperand (v.map .u16)
  | .encU32 v => valueOperand (v.map .u32)
  | .encDate d => valueOperand (d.map .date)
  | .encFlags f => valueOperand (f.map .flags)
  | .encUnsup _ v => valueOperand v
  | .decText xs => bytesOperand xs
  | .decF32 xs => bytesOperand xs
  | .decF64 xs => bytesOperand xs
  | .decU16 xs => bytesOperand xs
  | .decU32 xs => bytesOperand xs
  | .decDate xs => bytesOperand xs
  | .decFlags xs => bytesOperand xs
  | .decUnsup _ xs => bytesOperand xs

/-- The encoder: how a host issues an instruction (R80, R83). -/
def encode (i : Instr) : Issue := ⟨i.opcode.word, i.operand⟩

/-! ### The opcode table -/

/-- One row of the opcode table: the words `w` with `w AND mask = pattern`. -/
structure OpcodeRow where
  mnemonic : String
  pattern : Byte
  mask : Byte
  deriving DecidableEq, Repr

/-- A word is one of the row's. -/
def OpcodeRow.covers (r : OpcodeRow) (w : Byte) : Bool := w &&& r.mask == r.pattern

/-- The framer's and the frame codec's rows of spec/opcode_table.json. -/
def frameRows : List OpcodeRow :=
  [⟨"FPUSH", 0x00#8, 0xFF#8⟩, ⟨"FRESET", 0x01#8, 0xFF#8⟩,
   ⟨"DESER", 0x10#8, 0xFF#8⟩, ⟨"SER", 0x11#8, 0xFF#8⟩, ⟨"ERRTXT", 0x12#8, 0xFF#8⟩]

/-- The primitive codec's encode rows. -/
def encRows : List OpcodeRow :=
  [⟨"ENC.TEXT", 0x20#8, 0xFF#8⟩, ⟨"ENC.F32", 0x21#8, 0xFF#8⟩, ⟨"ENC.F64", 0x22#8, 0xFF#8⟩,
   ⟨"ENC.U16", 0x23#8, 0xFF#8⟩, ⟨"ENC.U32", 0x24#8, 0xFF#8⟩, ⟨"ENC.DATE", 0x25#8, 0xFF#8⟩,
   ⟨"ENC.FLAGS", 0x26#8, 0xFF#8⟩, ⟨"ENC.UNSUP", 0x27#8, 0xFF#8⟩, ⟨"ENC.UNSUP", 0x28#8, 0xF8#8⟩]

/-- The primitive codec's decode rows. -/
def decRows : List OpcodeRow :=
  [⟨"DEC.TEXT", 0x30#8, 0xFF#8⟩, ⟨"DEC.F32", 0x31#8, 0xFF#8⟩, ⟨"DEC.F64", 0x32#8, 0xFF#8⟩,
   ⟨"DEC.U16", 0x33#8, 0xFF#8⟩, ⟨"DEC.U32", 0x34#8, 0xFF#8⟩, ⟨"DEC.DATE", 0x35#8, 0xFF#8⟩,
   ⟨"DEC.FLAGS", 0x36#8, 0xFF#8⟩, ⟨"DEC.UNSUP", 0x37#8, 0xFF#8⟩, ⟨"DEC.UNSUP", 0x38#8, 0xF8#8⟩]

/-- All 23 rows of spec/opcode_table.json. -/
def opcodeRows : List OpcodeRow := frameRows ++ encRows ++ decRows

/-- The mnemonics of the rows that cover a word. -/
def mnemonicsAt (w : Byte) : List String := (opcodeRows.filter (·.covers w)).map (·.mnemonic)

/-- An operation's mnemonic (R81). -/
def Opcode.mnemonic : Opcode → String
  | .fpush => "FPUSH"
  | .freset => "FRESET"
  | .deser => "DESER"
  | .ser => "SER"
  | .errtxt => "ERRTXT"
  | .encText => "ENC.TEXT"
  | .encF32 => "ENC.F32"
  | .encF64 => "ENC.F64"
  | .encU16 => "ENC.U16"
  | .encU32 => "ENC.U32"
  | .encDate => "ENC.DATE"
  | .encFlags => "ENC.FLAGS"
  | .encUnsup _ => "ENC.UNSUP"
  | .decText => "DEC.TEXT"
  | .decF32 => "DEC.F32"
  | .decF64 => "DEC.F64"
  | .decU16 => "DEC.U16"
  | .decU32 => "DEC.U32"
  | .decDate => "DEC.DATE"
  | .decFlags => "DEC.FLAGS"
  | .decUnsup _ => "DEC.UNSUP"

/-! ### An instruction from the bits of its table row -/

/-- The operand of zeros an operation word stands with when only its row's bits are given: the byte in the bits above
the word (zero beyond the row's bits), an empty raw frame, a request of zeros, and no typed value or payload
(`absent`) for ENC and DEC. DESIGN CHOICE, safe: log 5. -/
def zeroOperand (op : Opcode) (bits : Nat) : Operand :=
  match op with
  | .fpush | .errtxt => .byte (BitVec.ofNat 8 (bits / 256))
  | .freset => .nothing
  | .deser => .bytes []
  | .ser => .request ⟨0, .short, .batch, [], 0, []⟩
  | .encText | .encF32 | .encF64 | .encU16 | .encU32 | .encDate | .encFlags | .encUnsup _ => .absent
  | .decText | .decF32 | .decF64 | .decU16 | .decU32 | .decDate | .decFlags | .decUnsup _ => .absent

/-- The issue whose word has the table-numbered bits `w` (bit 0 the least significant of the operation word), every bit
from `nbits` up being 0. -/
def tableIssue (nbits w : Nat) : Issue :=
  let bits := w % 2 ^ nbits
  let word := BitVec.ofNat 8 bits
  match opcodeOf word with
  | none => ⟨word, .nothing⟩
  | some op => ⟨word, zeroOperand op bits⟩

/-- The instruction the decoder reads from a word of the opcode table. -/
def decodeTableWord (nbits w : Nat) : Option Instr :=
  match decode (tableIssue nbits w) with
  | .ok i => some i
  | .error _ => none

/-! ### Pseudo-operations of the assembler (R86) -/

/-- `FPUSHN [b0, ..., bk]` is `FPUSH b0` … `FPUSH bk` in order: one delivery chunk (R86, R110). -/
def fpushn (bs : Bytes) : List Issue := bs.map fun b => encode (.fpush b)

/-- The sixteen hexadecimal digits, each at its value. -/
def hexDigits : List Char := "0123456789ABCDEF".toList

/-- The value of a hexadecimal digit of either case: its place among the sixteen. -/
def hexDigit (c : Char) : Option Nat := hexDigits.findIdx? (· == c.toUpper)

/-- Bytes written in hexadecimal, two digits each, with spaces between them; `none` for any other text. -/
def hexBytes : List Char → Option Bytes
  | [] => some []
  | ' ' :: cs => hexBytes cs
  | h :: l :: cs =>
    match hexDigit h, hexDigit l, hexBytes cs with
    | some a, some b, some bs => some (BitVec.ofNat 8 (16 * a + b) :: bs)
    | _, _, _ => none
  | [_] => none

/-- A line of assembly (R86): an operation or one of the two pseudo-operations. -/
inductive AsmLine where
  | op (i : Instr)
  | fpushn (bs : Bytes)
  | feed (hex : List Char)
  deriving DecidableEq, Repr

/-- The operations a line of assembly stands for: `FEED` is `FPUSHN` with the bytes written in hexadecimal (R86). -/
def assembleLine : AsmLine → Option (List Issue)
  | .op i => some [encode i]
  | .fpushn bs => some (Sys2Proof.fpushn bs)
  | .feed hex => (hexBytes hex).map Sys2Proof.fpushn

end Sys2Proof
end

