-- ==== Sys2Proof/Machine/State.lean ====
section
/-!
DEFINITION. The state of the block (10_state.md), the results and errors of its operations (60_exceptions.md), the ways a step stops,
and the state after power-on.
-/

namespace Sys2Proof.Machine

/-- Field `phase` of the framer (R21): what the next byte means. -/
inductive Phase where
  | seekPreamble
  | countPreamble
  | addressPhase
  | commandPhase
  | counterPhase
  | dataPhase
  | checksumPhase
  deriving DecidableEq, Repr, Inhabited

/-- The numeric phase codes of R21. Code 7 names no phase. -/
def Phase.code : Phase → BitVec 3
  | .seekPreamble => 0
  | .countPreamble => 1
  | .addressPhase => 2
  | .commandPhase => 3
  | .counterPhase => 4
  | .dataPhase => 5
  | .checksumPhase => 6

/-- The framer state `s` of R21 to R26: the block's only architectural state (R20). -/
structure Framer where
  /-- The phase (R21). -/
  phase : Phase
  /-- The count of consecutive FF bytes accepted as preamble, unbounded (R22, D4; log 12). -/
  pre : Nat
  /-- The FrameFormat recorded from the limiter (R23). -/
  fmt : Format
  /-- The bytes still to be consumed in the current phase (R24). -/
  rem : Nat
  /-- The next command byte is the extension byte (R25). -/
  ext : Bool
  /-- The frame bytes after the preamble, limiter first (R26). -/
  body : Bytes
  deriving DecidableEq, Repr

/-- The reset state `S0` (R28). Its `fmt` is unspecified: a constant without a body (R23, I1; log 1). -/
def Framer.reset : Framer :=
  { phase := .seekPreamble, pre := 0, fmt := Config.resetFmt, rem := 0, ext := false, body := [] }

/-- The reasons of `Range` (R220). -/
inductive RangeReason where
  | outOfRange
  | tooManyFlags
  | wrongLength
  | invalidDate
  | payloadTooLong
  deriving DecidableEq, Repr

/-- The reasons of `MalformedFrame` (R220). -/
inductive FrameReason where
  | limiter
  | truncated
  | count
  deriving DecidableEq, Repr

/-- The closed set of errors (R220). An error is the answer of its operation, not a stop of the machine (R222, R228). -/
inductive OpError where
  | unsupportedType (tag : BitVec 4)
  | range (r : RangeReason)
  | missingInput
  | malformedFrame (r : FrameReason)
  | integrity
  /-- Never raised by this block (R230). -/
  | transport
  deriving DecidableEq, Repr

/-- The numeric error codes of R220. -/
def OpError.code : OpError → Nat
  | .unsupportedType _ => 1
  | .range _ => 2
  | .missingInput => 3
  | .malformedFrame _ => 4
  | .integrity => 5
  | .transport => 6

/-- The result of DESER (R36). The counter is not retained. -/
structure Response where
  preamble : Nat
  fmt : Format
  isBatchMode : Bool
  limiter : Byte
  address : Bytes
  command : CommandField
  commandNumber : Nat
  rc0 : Byte
  rc1 : Byte
  /-- 0..65535 in a 32-bit unsigned slot (R36, D14). -/
  responseCode : BitVec 32
  communicationError : Text
  data : Bytes
  deriving DecidableEq, Repr

/-- The result of an operation that ends without an error (R81). -/
inductive Result where
  /-- FRESET returns nothing (R109). -/
  | nothing
  /-- FPUSH that completes no frame: `none` (R100). -/
  | noFrame
  /-- FPUSH of a checksum byte: `frame(F)` (R108). -/
  | frame (raw : Bytes)
  | response (r : Response)
  | bytes (xs : Bytes)
  | text (t : Text)
  | value (v : Value)
  deriving DecidableEq, Repr

/-- What an operation returns: one result or one error (R80, R222). -/
inductive Answer where
  | result (r : Result)
  | error (e : OpError)
  deriving DecidableEq, Repr

/-- What the host receives from one operation: the answer, and whether the one payload-less frame-ready event fired in
it (R117, R227). -/
structure Observation where
  answer : Answer
  frameReady : Bool
  deriving DecidableEq, Repr

/-- The state of a run: the framer, the operations the host has issued and the block has not yet executed, and what the
host has observed so far. The last two are the model's own fields (R236, R238; log 2, log 3); no meaning reads
`observed`, and no meaning reads or writes `issued`. -/
structure State where
  /-- The block's architectural state (R20). -/
  framer : Framer
  /-- Operations issued and not yet executed, oldest first (R60, R238). -/
  issued : List Issue
  /-- Observations of the operations executed so far, oldest first (R238). -/
  observed : List Observation
  deriving DecidableEq, Repr

/-- The machine right after power-on or reset: the framer in `S0` (R28, R261, R262), nothing issued, nothing observed. -/
def State.reset : State := { framer := Framer.reset, issued := [], observed := [] }

/-- Why the machine stops. The block itself has no fault: its errors are answers (R222, R228). -/
inductive Fault where
  /-- Raised by `step` when the host has issued no operation: there is no step to take, and the run has ended (R238,
  R272; I21 "no progress until the host acts"). Safe: log 4. -/
  | noOperation
  deriving DecidableEq, Repr

/-- Why an issued operation has no step. -/
inductive Refusal where
  /-- Raised by an arm of `exec` whose instruction has no meaning yet. Safe. No arm raises it. -/
  | notModelled (mnemonic : String)
  /-- Raised by `step` on an operation word that names no operation: "the block refuses them (no step, no result)" (R84).
  Safe: log 6. -/
  | reservedWord (word : Byte)
  /-- Raised by `step` when the operand is not of the format the word takes (R83). Safe: log 6. -/
  | operandKind (word : Byte)
  deriving DecidableEq, Repr

end Sys2Proof.Machine
end

