-- ==== Sys2Proof/Machine/Ops.lean ====
section
/-!
DEFINITION. The named operations on the state: taking the next issued operation, answering it with a result or an error, emitting
a frame, and writing the framer. Raising an error is ONE shared operation, `State.raise`; the block has no trap entry beyond it
and no return from one (R228, R229).
-/

namespace Sys2Proof.Machine

/-- Deliver an answer to the host, with or without the frame-ready event (R117, R222). -/
def State.observe (a : Answer) (ready : Bool) (s : State) : State :=
  { s with observed := s.observed ++ [{ answer := a, frameReady := ready }] }

/-- `return v` (R12): the operation ends with a result and no event. -/
def State.answer (r : Result) (s : State) : State := s.observe (.result r) false

/-- `raise e` (R12): the operation ends with the error and no result. Nothing else changes: no state is saved, no mode
changes, control goes nowhere (R222, R223, R228). -/
def State.raise (e : OpError) (s : State) : State := s.observe (.error e) false

/-- `emit F; return frame(F)` (R12, R108): the frame is the result, and one frame-ready event fires with it (R117). -/
def State.emit (raw : Bytes) (s : State) : State := s.observe (.result (.frame raw)) true

/-- Write the framer state (R29: only FPUSH and FRESET do). -/
def State.setFramer (f : Framer) (s : State) : State := { s with framer := f }

/-- An operation of a codec unit: it delivers its answer and writes nothing (R57, R223). -/
def State.reply (a : Answer) (s : State) : State :=
  match a with
  | .result r => s.answer r
  | .error e => s.raise e

/-- The answer of an operation that returns a result or raises an error (R12, R222). -/
def answerWith {α : Type} (result : α → Result) : Except OpError α → Answer
  | .ok v => .result (result v)
  | .error e => .error e

/-- The next issued operation and the state without it; `none` when the host has issued none. Operations are taken in
issue order (R60). -/
def State.fetch (s : State) : Option (Issue × State) :=
  match s.issued with
  | [] => none
  | x :: rest => some (x, { s with issued := rest })

/-- The host issues an operation that the block takes next. -/
def State.issueFirst (x : Issue) (s : State) : State := { s with issued := x :: s.issued }

/-- The refusal of an issue that does not decode, with its word. -/
def refusalOf (word : Byte) : DecodeError → Refusal
  | .reservedWord => .reservedWord word
  | .operandKind => .operandKind word

end Sys2Proof.Machine
end

