-- ==== Sys2Proof/Machine/ByteStreamFramer.lean ====
section
/-!
DEFINITION. The ByteStreamFramer's operations FPUSH and FRESET (40_framer.md R100 to R109): one small function per phase.
-/

namespace Sys2Proof.Machine

/-- `Append(s.body, b)` (R11, R50). -/
def Framer.append (f : Framer) (b : Byte) : Framer := { f with body := f.body ++ [b] }

/-- SeekPreamble: discard until the preamble symbol, then begin counting (R101). -/
def Framer.pushSeek (f : Framer) (b : Byte) : Framer :=
  if b = preambleSymbol then { f with phase := .countPreamble, pre := 1 } else f

/-- CountPreamble: keep counting (R102), or test the limiter candidate (R103). -/
def Framer.pushCount (f : Framer) (b : Byte) : Framer :=
  if b = preambleSymbol then { f with pre := f.pre + 1 }
  else if f.pre ≥ 2 ∧ framerLimiter b then
    { f with
      fmt := limiterFormat b
      body := [b]
      rem := addressLength (limiterFormat b)
      phase := .addressPhase }
  else Framer.reset

/-- AddressPhase: one of the address bytes (R104). -/
def Framer.pushAddress (f : Framer) (b : Byte) : Framer :=
  { f.append b with
    rem := f.rem - 1
    phase := if f.rem - 1 = 0 then .commandPhase else f.phase }

/-- CommandPhase: a command byte, or the extension byte after FE (R105). -/
def Framer.pushCommand (f : Framer) (b : Byte) : Framer :=
  if f.ext = false ∧ b = extensionByte then { f.append b with ext := true }
  else { f.append b with ext := false, phase := .counterPhase }

/-- CounterPhase: the counter N; N = 0 skips DataPhase (R106). -/
def Framer.pushCounter (f : Framer) (b : Byte) : Framer :=
  { f.append b with
    rem := b.toNat
    phase := if b = 0#8 then .checksumPhase else .dataPhase }

/-- DataPhase: one of the N data bytes (R107). -/
def Framer.pushData (f : Framer) (b : Byte) : Framer :=
  { f.append b with
    rem := f.rem - 1
    phase := if f.rem - 1 = 0 then .checksumPhase else f.phase }

/-- The raw frame that checksum byte `b` completes: the preamble run is regenerated from its count (R26, R108). -/
def Framer.completed (f : Framer) (b : Byte) : Bytes := preambleRun f.pre ++ f.body ++ [b]

/-- One transition of the framer: the state after byte `b`, and the frame it emits if it completes one (R100). -/
def Framer.push (f : Framer) (b : Byte) : Framer × Option Bytes :=
  match f.phase with
  | .seekPreamble => (f.pushSeek b, none)
  | .countPreamble => (f.pushCount b, none)
  | .addressPhase => (f.pushAddress b, none)
  | .commandPhase => (f.pushCommand b, none)
  | .counterPhase => (f.pushCounter b, none)
  | .dataPhase => (f.pushData b, none)
  | .checksumPhase => (Framer.reset, some (f.completed b))

/-- FPUSH (R100): no error in any state for any byte (R111). -/
def execFpush (b : Byte) (s : State) : Host.Outcome State Fault Refusal :=
  match s.framer.push b with
  | (f, none) => .next ((s.setFramer f).answer .noFrame)
  | (f, some raw) => .next ((s.setFramer f).emit raw)

/-- FRESET (R109): the framer goes to S0; nothing is emitted and no event fires. -/
def execFreset (s : State) : Host.Outcome State Fault Refusal :=
  .next ((s.setFramer Framer.reset).answer .nothing)

end Sys2Proof.Machine
end

