-- ==== Sys2Proof/Machine/FrameCodec.lean ====
section
/-!
DEFINITION. The FrameCodec's operations DESER, SER and ERRTXT (41_frame_codec.md R130 to R157). DESER is written over the byte lists
the fields leave: "the field lies before the checksum byte" is "the field lies in the rest of the body" (R134).
-/

namespace Sys2Proof.Machine

/-- The description text of response-code byte 0 (R156). -/
def errorText (c : Byte) : Text :=
  match Config.errorTable c with
  | .mapped t => t
  | .unmapped => Config.unknownErrorText

/-- `commandNumber` of a command field (R137). -/
def commandNumber : CommandField → Nat
  | .single c0 => c0.toNat
  | .extended c1 => Config.extCmdValue c1

/-- Read `n` opaque bytes that must lie wholly before the checksum (R134, R138); the bytes and the rest. -/
def readField (n : Nat) (xs : Bytes) : Except OpError (Bytes × Bytes) :=
  if xs.length < n then .error (.malformedFrame .truncated) else .ok (xs.take n, xs.drop n)

/-- Step 5: the command byte, and the second one after FE (R137); the field and the rest. -/
def readCommand : Bytes → Except OpError (CommandField × Bytes)
  | [] => .error (.malformedFrame .truncated)
  | c0 :: rest =>
    if c0 = extensionByte then
      match rest with
      | [] => .error (.malformedFrame .truncated)
      | c1 :: rest => .ok (.extended c1, rest)
    else .ok (.single c0, rest)

/-- Step 6: the counter, checked against the bytes that follow it, at least the two response-code bytes (R135, D12);
the response-code bytes and the payload (R140, R141). -/
def readCounted : Bytes → Except OpError (Byte × Byte × Bytes)
  | [] => .error (.malformedFrame .truncated)
  | n :: rest =>
    if n.toNat ≠ rest.length then .error (.malformedFrame .count)
    else
      match rest with
      | rc0 :: rc1 :: data => .ok (rc0, rc1, data)
      | _ => .error (.malformedFrame .count)

/-- The integer of the two response-code bytes, in a 32-bit slot (R36, R140). -/
def responseCode (rc0 rc1 : Byte) : BitVec 32 := BitVec.ofNat 32 (fromBytes wireOrder [rc0, rc1])

/-- Steps 4 to 9, on the bytes between the limiter and the checksum (R130). -/
def readFields (preamble : Nat) (lim : Byte) (rest : Bytes) : Except OpError Response :=
  match readField (addressLength (limiterFormat lim)) rest with
  | .error e => .error e
  | .ok (address, rest) =>
    match readCommand rest with
    | .error e => .error e
    | .ok (command, rest) =>
      match readCounted rest with
      | .error e => .error e
      | .ok (rc0, rc1, data) =>
        .ok
          { preamble := preamble
            fmt := limiterFormat lim
            isBatchMode := isBatchLimiter lim
            limiter := lim
            address := address
            command := command
            commandNumber := commandNumber command
            rc0 := rc0
            rc1 := rc1
            responseCode := responseCode rc0 rc1
            communicationError := errorText rc0
            data := data }

/-- Step 3 onwards, once the checksum has validated: the limiter (R136), then the fields. -/
def readChecked (preamble : Nat) : Bytes → Except OpError Response
  | [] => .error (.malformedFrame .truncated)
  | lim :: rest =>
    if knownLimiter lim then readFields preamble lim rest else .error (.malformedFrame .limiter)

/-- DESER (R130): the preamble count (R131), the minimum length (R132), the checksum (R133), then the fields. -/
def deserialize (raw : Bytes) : Except OpError Response :=
  let preamble := preambleCount raw
  let rest := raw.drop preamble
  if rest.length < 2 then .error (.malformedFrame .truncated)
  else if xorFold rest.dropLast ≠ rest.getLastD 0#8 then .error .integrity
  else readChecked preamble rest.dropLast

/-- The command byte or bytes SER writes for a command number (R149). -/
def commandBytes (n : Nat) : Bytes :=
  if n ≤ 253 then [BitVec.ofNat 8 n] else [extensionByte, Config.extCmdByte n]

/-- The payload SER writes (R150): the request's data where the payload is included, else none. -/
def requestPayload (included : Bool) (q : Request) : Bytes := if included then q.data else []

/-- Limiter to last payload byte of a request frame (R145). -/
def requestBody (q : Request) (payload : Bytes) : Bytes :=
  [limiterByte q.fmt q.mode] ++ q.address ++ commandBytes q.command ++
    [BitVec.ofNat 8 payload.length] ++ payload

/-- SER (R145), for either value of `INCLUDE_REQUEST_PAYLOAD`. -/
def serialize (included : Bool) (q : Request) : Except OpError Bytes :=
  let payload := requestPayload included q
  if payload.length > 255 then .error (.range .payloadTooLong)
  else
    let body := requestBody q payload
    .ok (preambleRun q.preamble ++ body ++ [xorFold body])

/-- The raw frame DESER reads: its operand, or the free one that stands for the absent operand (log 28). -/
def rawFrame : Option Bytes → Bytes
  | none => Config.absentFrame
  | some raw => raw

/-- DESER: a Response or an error (R130); on the absent operand a free one of these (log 28). -/
def execDeser (raw : Option Bytes) (s : State) : Host.Outcome State Fault Refusal :=
  .next (s.reply (answerWith .response (deserialize (rawFrame raw))))

/-- SER: the bytes of the request frame or an error (R145), at the parameter's value (D8). -/
def execSer (q : Request) (s : State) : Host.Outcome State Fault Refusal :=
  .next (s.reply (answerWith .bytes (serialize Config.includeRequestPayload q)))

/-- ERRTXT: the lookup never fails (R156). -/
def execErrtxt (c : Byte) (s : State) : Host.Outcome State Fault Refusal :=
  .next (s.answer (.text (errorText c)))

end Sys2Proof.Machine
end

