-- ==== Sys2Proof/Machine/Calendar.lean ====
section
/-!
DEFINITION. Valid calendar dates (42_primitive_codec.md R179, R189): the Gregorian calendar, which the spec supplies from general
knowledge (G4, D19). PRESUMED, unsafe: log 14.
-/

namespace Sys2Proof.Machine

/-- A leap year: divisible by 4 and not by 100, or divisible by 400 (R189). -/
def isLeapYear (year : Int) : Bool :=
  (year % 4 == 0 && year % 100 != 0) || year % 400 == 0

/-- The length of a month of the Gregorian calendar; 0 for a number that is no month (R189). -/
def daysInMonth (month year : Int) : Int :=
  if month = 2 then (if isLeapYear year then 29 else 28)
  else if month = 4 ∨ month = 6 ∨ month = 9 ∨ month = 11 then 30
  else if 1 ≤ month ∧ month ≤ 12 then 31
  else 0

/-- Month 1..12 and day 1..days of that month (R189). No bound on the year is stated. -/
def validDate (d : Date) : Bool :=
  decide (1 ≤ d.month) && decide (d.month ≤ 12) && decide (1 ≤ d.day) &&
    decide (d.day ≤ daysInMonth d.month d.year)

end Sys2Proof.Machine
end

