-- ==== Sys2Proof/Machine/PrimitiveDecode.lean ====
section
/-!
DEFINITION. The PrimitiveCodec's decode operations DEC.t (42_primitive_codec.md R172, R173, R184 to R192): absent first, then the tag,
then the length, then date validity (R192).
-/

namespace Sys2Proof.Machine

/-- DEC of an optional operand: "`decode(absent)` fails with a missing-input error" (R173), before anything else (R192). -/
def decodeOptional (dec : Bytes → Answer) : Option Bytes → Answer
  | none => .error .missingInput
  | some xs => dec xs

/-- A fixed-width type takes exactly its width (R172). -/
def decodeExact (n : Nat) (dec : Bytes → Answer) (xs : Bytes) : Answer :=
  if xs.length ≠ n then .error (.range .wrongLength) else dec xs

/-- The number of a multi-byte value in the primitives' byte order (R53). -/
def decodeNumber (xs : Bytes) : Nat := fromBytes wireOrder xs

/-- The date of three bytes, its year byte + 1900 (R189). -/
def dateOf (d m y : Byte) : Date := ⟨d.toNat, m.toNat, y.toNat + 1900⟩

/-- Three bytes as a calendar date, or a range error where they are none (R189). -/
def decodeDate : Bytes → Answer
  | [d, m, y] =>
    if validDate (dateOf d m y) then .result (.value (.date (dateOf d m y)))
    else .error (.range .invalidDate)
  | _ => .error (.range .wrongLength)

/-- One byte as 8 flags (R190). -/
def decodeFlags : Bytes → Answer
  | [b] => .result (.value (.flags (byteFlags b)))
  | _ => .error (.range .wrongLength)

/-- DEC.TEXT (R184): any length; 0x00 is a character. -/
def execDecText (xs : Option Bytes) (s : State) : Host.Outcome State Fault Refusal :=
  .next (s.reply (decodeOptional (fun xs => .result (.value (.text (xs.map byteChar)))) xs))

/-- DEC.F32 (R185): the bit pattern, unchanged. -/
def execDecF32 (xs : Option Bytes) (s : State) : Host.Outcome State Fault Refusal :=
  .next (s.reply (decodeOptional
    (decodeExact 4 fun xs => .result (.value (.f32 (BitVec.ofNat 32 (decodeNumber xs))))) xs))

/-- DEC.F64 (R186): the bit pattern, unchanged. -/
def execDecF64 (xs : Option Bytes) (s : State) : Host.Outcome State Fault Refusal :=
  .next (s.reply (decodeOptional
    (decodeExact 8 fun xs => .result (.value (.f64 (BitVec.ofNat 64 (decodeNumber xs))))) xs))

/-- DEC.U16 (R187). -/
def execDecU16 (xs : Option Bytes) (s : State) : Host.Outcome State Fault Refusal :=
  .next (s.reply (decodeOptional
    (decodeExact 2 fun xs => .result (.value (.u16 (BitVec.ofNat 16 (decodeNumber xs))))) xs))

/-- DEC.U32 (R188): three bytes zero-extended to 32 bits. -/
def execDecU32 (xs : Option Bytes) (s : State) : Host.Outcome State Fault Refusal :=
  .next (s.reply (decodeOptional
    (decodeExact 3 fun xs => .result (.value (.u32 (BitVec.ofNat 32 (decodeNumber xs))))) xs))

/-- DEC.DATE (R189): the length before the validity (R192). -/
def execDecDate (xs : Option Bytes) (s : State) : Host.Outcome State Fault Refusal :=
  .next (s.reply (decodeOptional (decodeExact 3 decodeDate) xs))

/-- DEC.FLAGS (R190). -/
def execDecFlags (xs : Option Bytes) (s : State) : Host.Outcome State Fault Refusal :=
  .next (s.reply (decodeOptional (decodeExact 1 decodeFlags) xs))

/-- DEC.UNSUP (R191): the tag before the length (R192). -/
def execDecUnsup (tag : BitVec 4) (xs : Option Bytes) (s : State) : Host.Outcome State Fault Refusal :=
  .next (s.reply (decodeOptional (fun _ => .error (.unsupportedType tag)) xs))

end Sys2Proof.Machine
end

