-- ==== Sys2Proof/Machine/PrimitiveEncode.lean ====
section
/-!
DEFINITION. The PrimitiveCodec's encode operations ENC.t (42_primitive_codec.md R171, R174 to R182): absent first, then the tag, then
the range (R182).
-/

namespace Sys2Proof.Machine

/-- ENC of an optional operand: "`encode(absent)` returns an empty result (no error)" (R171), before anything else (R182). -/
def encodeOptional {α : Type} (enc : α → Answer) : Option α → Answer
  | none => .result (.bytes [])
  | some v => enc v

/-- The bytes of a text, one per character, no terminator (R174). -/
def encodeText (x : Text) : Answer := .result (.bytes (x.map charByte))

/-- A fixed-width value of `n` bytes in the primitives' byte order (R175 to R177). -/
def encodeFixed (n v : Nat) : Answer := .result (.bytes (toBytes wireOrder n v))

/-- The 24-bit-clamped uint32: 3 bytes, or a range error above 16,777,215 (R178). -/
def encodeU32 (v : BitVec 32) : Answer :=
  if v.toNat > 16777215 then .error (.range .outOfRange) else encodeFixed 3 v.toNat

/-- The three bytes of a triple: of a calendar date its day, month and year − 1900, each truncated to its low byte (R179); of
any other triple, for which no result is stated, three free bytes (log 29). -/
def dateBytes (d : Date) : Byte × Byte × Byte :=
  if validDate d then (BitVec.ofInt 8 d.day, BitVec.ofInt 8 d.month, BitVec.ofInt 8 (d.year - 1900))
  else Config.nonDateBytes d

/-- A date: three bytes, and never an error (R179, R221). -/
def encodeDate (d : Date) : Answer :=
  .result (.bytes [(dateBytes d).1, (dateBytes d).2.1, (dateBytes d).2.2])

/-- A flag set: one byte, or a range error for more than 8 flags (R180). -/
def encodeFlags (f : FlagSet) : Answer :=
  if f.length > 8 then .error (.range .tooManyFlags) else .result (.bytes [flagByte f])

/-- ENC.TEXT (R174). -/
def execEncText (x : Option Text) (s : State) : Host.Outcome State Fault Refusal :=
  .next (s.reply (encodeOptional encodeText x))

/-- ENC.F32 (R175): the bit pattern, unchanged. -/
def execEncF32 (v : Option (BitVec 32)) (s : State) : Host.Outcome State Fault Refusal :=
  .next (s.reply (encodeOptional (fun v => encodeFixed 4 v.toNat) v))

/-- ENC.F64 (R176): the bit pattern, unchanged. -/
def execEncF64 (v : Option (BitVec 64)) (s : State) : Host.Outcome State Fault Refusal :=
  .next (s.reply (encodeOptional (fun v => encodeFixed 8 v.toNat) v))

/-- ENC.U16 (R177). -/
def execEncU16 (v : Option (BitVec 16)) (s : State) : Host.Outcome State Fault Refusal :=
  .next (s.reply (encodeOptional (fun v => encodeFixed 2 v.toNat) v))

/-- ENC.U32 (R178). -/
def execEncU32 (v : Option (BitVec 32)) (s : State) : Host.Outcome State Fault Refusal :=
  .next (s.reply (encodeOptional encodeU32 v))

/-- ENC.DATE (R179). -/
def execEncDate (d : Option Date) (s : State) : Host.Outcome State Fault Refusal :=
  .next (s.reply (encodeOptional encodeDate d))

/-- ENC.FLAGS (R180). -/
def execEncFlags (f : Option FlagSet) (s : State) : Host.Outcome State Fault Refusal :=
  .next (s.reply (encodeOptional encodeFlags f))

/-- ENC.UNSUP (R181): any present value raises UnsupportedType with the tag. -/
def execEncUnsup (tag : BitVec 4) (v : Option Value) (s : State) : Host.Outcome State Fault Refusal :=
  .next (s.reply (encodeOptional (fun _ => .error (.unsupportedType tag)) v))

end Sys2Proof.Machine
end

