-- ==== Sys2Proof/Machine/Dispatch.lean ====
section
/-!
DEFINITION. One arm per operation (30_encoding.md R81): each calls its meaning.
-/

namespace Sys2Proof.Machine

def exec (i : Instr) (s : State) : Host.Outcome State Fault Refusal :=
  match i with
  | .fpush b => Sys2Proof.Machine.execFpush b s
  | .freset => Sys2Proof.Machine.execFreset s
  | .deser raw => Sys2Proof.Machine.execDeser raw s
  | .ser q => Sys2Proof.Machine.execSer q s
  | .errtxt c => Sys2Proof.Machine.execErrtxt c s
  | .encText x => Sys2Proof.Machine.execEncText x s
  | .encF32 v => Sys2Proof.Machine.execEncF32 v s
  | .encF64 v => Sys2Proof.Machine.execEncF64 v s
  | .encU16 v => Sys2Proof.Machine.execEncU16 v s
  | .encU32 v => Sys2Proof.Machine.execEncU32 v s
  | .encDate d => Sys2Proof.Machine.execEncDate d s
  | .encFlags f => Sys2Proof.Machine.execEncFlags f s
  | .encUnsup tag v => Sys2Proof.Machine.execEncUnsup tag v s
  | .decText xs => Sys2Proof.Machine.execDecText xs s
  | .decF32 xs => Sys2Proof.Machine.execDecF32 xs s
  | .decF64 xs => Sys2Proof.Machine.execDecF64 xs s
  | .decU16 xs => Sys2Proof.Machine.execDecU16 xs s
  | .decU32 xs => Sys2Proof.Machine.execDecU32 xs s
  | .decDate xs => Sys2Proof.Machine.execDecDate xs s
  | .decFlags xs => Sys2Proof.Machine.execDecFlags xs s
  | .decUnsup tag xs => Sys2Proof.Machine.execDecUnsup tag xs s

end Sys2Proof.Machine
end

