-- ==== Sys2Proof/Machine/Step.lean ====
section
/-!
DEFINITION. One step: the block takes the next operation the host issued and executes it whole (30_encoding.md R80, 20 R56, R60; 70 R272).
-/

namespace Sys2Proof.Machine

/-- The next issued operation is taken, decoded and executed. With nothing issued there is no step (R238, R272; log 4); an
issue that is no operation is refused by name and stays issued (R84). -/
def step (s : State) : Host.Outcome State Fault Refusal :=
  match s.fetch with
  | none => .fault .noOperation
  | some (x, s') =>
    match decode x with
    | .ok i => exec i s'
    | .error e => .refused (refusalOf x.word e)

/-- `s` with the operation of a table word issued as the one `step` takes next (log 2, log 5). -/
def State.withFetchWord (s : State) (nbits w : Nat) : State := s.issueFirst (tableIssue nbits w)

end Sys2Proof.Machine
end

