-- ==== Sys2Proof/Safety.lean ====
section
/-!
DEFINITION. The terms claims use: the framer's invariant and reset state (10_state.md R27, R28), the frames the framer recovers (30_encoding.md
R71, 40 R118), runs over delivered chunks (R110), and the table of errors each operation may raise (60 R221).
-/

namespace Sys2Proof.Machine

/-! ### The framer's states -/

/-- The framer is in the reset state `S0`, whatever its unspecified `fmt` (R28). -/
def Framer.AtReset (f : Framer) : Prop :=
  f.phase = .seekPreamble ∧ f.pre = 0 ∧ f.rem = 0 ∧ f.ext = false ∧ f.body = []

/-- The command field on the wire: one byte that is not FE, or FE and one byte (R77). -/
def CommandWire (cmd : Bytes) : Prop :=
  (∃ c0 : Byte, c0 ≠ 0xFE#8 ∧ cmd = [c0]) ∨ ∃ c1 : Byte, cmd = [0xFE#8, c1]

/-- A limiter of the framer's set that selects the format (R73, R75). -/
def LimiterFor (fmt : Format) (lim : Byte) : Prop :=
  framerLimiter lim = true ∧ limiterFormat lim = fmt

/-- The invariant of every reachable framer state, by phase (R27), with the parts of `body` named. -/
def Framer.Inv (f : Framer) : Prop :=
  match f.phase with
  | .seekPreamble => f.pre = 0 ∧ f.rem = 0 ∧ f.ext = false ∧ f.body = []
  | .countPreamble => 1 ≤ f.pre ∧ f.rem = 0 ∧ f.ext = false ∧ f.body = []
  | .addressPhase =>
    2 ≤ f.pre ∧ f.ext = false ∧ 1 ≤ f.rem ∧
      ∃ lim addr, LimiterFor f.fmt lim ∧ f.body = lim :: addr ∧
        addr.length + f.rem = addressLength f.fmt
  | .commandPhase =>
    2 ≤ f.pre ∧ f.rem = 0 ∧
      ∃ lim addr, LimiterFor f.fmt lim ∧ addr.length = addressLength f.fmt ∧
        f.body = lim :: (addr ++ if f.ext then [0xFE#8] else [])
  | .counterPhase =>
    2 ≤ f.pre ∧ f.rem = 0 ∧ f.ext = false ∧
      ∃ lim addr cmd, LimiterFor f.fmt lim ∧ addr.length = addressLength f.fmt ∧
        CommandWire cmd ∧ f.body = lim :: (addr ++ cmd)
  | .dataPhase =>
    2 ≤ f.pre ∧ f.ext = false ∧ 1 ≤ f.rem ∧
      ∃ lim addr cmd n data, LimiterFor f.fmt lim ∧ addr.length = addressLength f.fmt ∧
        CommandWire cmd ∧ f.body = lim :: (addr ++ (cmd ++ n :: data)) ∧
        data.length + f.rem = n.toNat
  | .checksumPhase =>
    2 ≤ f.pre ∧ f.rem = 0 ∧ f.ext = false ∧
      ∃ lim addr cmd n data, LimiterFor f.fmt lim ∧ addr.length = addressLength f.fmt ∧
        CommandWire cmd ∧ f.body = lim :: (addr ++ (cmd ++ n :: data)) ∧
        data.length = n.toNat

/-- Two framer states that differ at most in a `fmt` that is not yet recorded (R23, I1). -/
def Framer.SameShown (f g : Framer) : Prop :=
  { f with fmt := g.fmt } = g ∧
    (f.phase ≠ .seekPreamble → f.phase ≠ .countPreamble → f.fmt = g.fmt)

/-! ### Frames -/

/-- A byte sequence the framer recovers as one frame (R71, R118): at least two preamble symbols, a limiter of its set, the
address of the limiter's format, a command field, a counter, that many bytes, and any checksum byte (R114). -/
def Framable (raw : Bytes) : Prop :=
  ∃ (pre : Nat) (lim : Byte) (addr cmd : Bytes) (n : Byte) (data : Bytes) (chk : Byte),
    2 ≤ pre ∧ framerLimiter lim = true ∧ addr.length = addressLength (limiterFormat lim) ∧
      CommandWire cmd ∧ data.length = n.toNat ∧
      raw = List.replicate pre 0xFF#8 ++ lim :: (addr ++ (cmd ++ n :: (data ++ [chk])))

/-- The frames among the observations of a run, in order (R61, R116). -/
def framesOf (obs : List Observation) : List Bytes :=
  obs.filterMap fun o =>
    match o.answer with
    | .result (.frame raw) => some raw
    | _ => none

/-- The number of frame-ready events of a run (R117). -/
def eventsOf (obs : List Observation) : Nat := obs.countP (·.frameReady)

/-- The exclusive-or of all bytes of a sequence (R11). -/
def xorAll (xs : Bytes) : Byte := xs.foldl (· ^^^ ·) 0#8

/-! ### Runs -/

/-- Go on from an outcome: only a next state goes on. -/
def andThen (o : Host.Outcome State Fault Refusal)
    (k : State → Host.Outcome State Fault Refusal) : Host.Outcome State Fault Refusal :=
  match o with
  | .next t => k t
  | .fault r => .fault r
  | .refused r => .refused r

/-- `k` steps of the machine, stopping at the first that gives no next state. -/
def run : Nat → State → Host.Outcome State Fault Refusal
  | 0, s => .next s
  | k + 1, s => andThen (step s) (run k)

/-- The host delivers one chunk of bytes, and the block takes it in: FPUSHN (R86, R110). -/
def deliverChunk (bs : Bytes) (s : State) : Host.Outcome State Fault Refusal :=
  run bs.length { s with issued := s.issued ++ fpushn bs }

/-- The host delivers chunk after chunk (R110). -/
def deliver : List Bytes → State → Host.Outcome State Fault Refusal
  | [], s => .next s
  | c :: cs, s => andThen (deliverChunk c s) (deliver cs)

/-! ### Answers -/

/-- The operation completes with this answer and no event, and changes nothing else: the framer and the operations still
issued are as before (R57, R223). -/
def Replies (i : Instr) (s : State) (a : Answer) : Prop :=
  exec i s = .next
    { framer := s.framer
      issued := s.issued
      observed := s.observed ++ [{ answer := a, frameReady := false }] }

/-- The state after an FPUSH that emits no frame: the framer is `f`, the answer is `none` (R100). -/
def State.silent (s : State) (f : Framer) : State :=
  { framer := f
    issued := s.issued
    observed := s.observed ++ [{ answer := .result .noFrame, frameReady := false }] }

/-- An operation of a unit without state: every one but FPUSH and FRESET (R20, R57). -/
def IsCodec (i : Instr) : Prop := (∀ b, i ≠ .fpush b) ∧ i ≠ .freset

/-- Which operation may raise which error (R221). -/
def MayRaise : Instr → OpError → Prop
  | .fpush _, _ => False
  | .freset, _ => False
  | .deser _, e =>
    e = .malformedFrame .truncated ∨ e = .malformedFrame .limiter ∨ e = .malformedFrame .count ∨
      e = .integrity
  | .ser _, e => e = .range .payloadTooLong
  | .errtxt _, _ => False
  | .encText _, _ => False
  | .encF32 _, _ => False
  | .encF64 _, _ => False
  | .encU16 _, _ => False
  | .encU32 _, e => e = .range .outOfRange
  | .encDate _, _ => False
  | .encFlags _, e => e = .range .tooManyFlags
  | .encUnsup tag _, e => e = .unsupportedType tag
  | .decText _, e => e = .missingInput
  | .decF32 _, e => e = .missingInput ∨ e = .range .wrongLength
  | .decF64 _, e => e = .missingInput ∨ e = .range .wrongLength
  | .decU16 _, e => e = .missingInput ∨ e = .range .wrongLength
  | .decU32 _, e => e = .missingInput ∨ e = .range .wrongLength
  | .decDate _, e => e = .missingInput ∨ e = .range .wrongLength ∨ e = .range .invalidDate
  | .decFlags _, e => e = .missingInput ∨ e = .range .wrongLength
  | .decUnsup tag _, e => e = .missingInput ∨ e = .unsupportedType tag

/-- The operand formats of the opcode table's `format` column (R83). -/
def FitsFormat : Opcode → Operand → Prop
  | .fpush, o => ∃ b, o = .byte b
  | .freset, o => o = .nothing
  | .deser, o => o = .absent ∨ ∃ xs, o = .bytes xs
  | .ser, o => ∃ q, o = .request q
  | .errtxt, o => ∃ b, o = .byte b
  | .encText, o => o = .absent ∨ ∃ x, o = .value (.text x)
  | .encF32, o => o = .absent ∨ ∃ v, o = .value (.f32 v)
  | .encF64, o => o = .absent ∨ ∃ v, o = .value (.f64 v)
  | .encU16, o => o = .absent ∨ ∃ v, o = .value (.u16 v)
  | .encU32, o => o = .absent ∨ ∃ v, o = .value (.u32 v)
  | .encDate, o => o = .absent ∨ ∃ d, o = .value (.date d)
  | .encFlags, o => o = .absent ∨ ∃ f, o = .value (.flags f)
  | .encUnsup _, o => o = .absent ∨ ∃ v, o = .value v
  | .decText, o => o = .absent ∨ ∃ xs, o = .bytes xs
  | .decF32, o => o = .absent ∨ ∃ xs, o = .bytes xs
  | .decF64, o => o = .absent ∨ ∃ xs, o = .bytes xs
  | .decU16, o => o = .absent ∨ ∃ xs, o = .bytes xs
  | .decU32, o => o = .absent ∨ ∃ xs, o = .bytes xs
  | .decDate, o => o = .absent ∨ ∃ xs, o = .bytes xs
  | .decFlags, o => o = .absent ∨ ∃ xs, o = .bytes xs
  | .decUnsup _, o => o = .absent ∨ ∃ xs, o = .bytes xs

end Sys2Proof.Machine
end

