-- ==== Sys2Proof/Certificates/Slice0/Obligations.lean ====
section
/-!
DEFINITION. The statements for the provers, from the numbered rules of the spec. "D<n>" are the spec's own decisions of
92_eei_decisions.md; where a statement rests on one, or on a log entry, its docstring says so.
-/

open Sys2Proof Sys2Proof.Machine

/-! ### Decoding, encoding and the step -/

/-- A few issues decode to the operations the table of R81 gives their words (numbering: D2). Sanity. -/
def Obligations.SampleWordsDecode : Prop :=
  decode ⟨0x00#8, .byte 0xFF#8⟩ = .ok (.fpush 0xFF#8) ∧
  decode ⟨0x01#8, .nothing⟩ = .ok .freset ∧
  decode ⟨0x10#8, .bytes [0x06#8]⟩ = .ok (.deser (some [0x06#8])) ∧
  decode ⟨0x12#8, .byte 0x05#8⟩ = .ok (.errtxt 0x05#8) ∧
  decode ⟨0x23#8, .value (.u16 0x1234#16)⟩ = .ok (.encU16 (some 0x1234#16)) ∧
  decode ⟨0x2A#8, .value .foreign⟩ = .ok (.encUnsup 10#4 (some .foreign)) ∧
  decode ⟨0x34#8, .bytes [0x56#8, 0x34#8, 0x12#8]⟩ =
    .ok (.decU32 (some [0x56#8, 0x34#8, 0x12#8])) ∧
  decode ⟨0x3F#8, .absent⟩ = .ok (.decUnsup 15#4 none)

/-- Every word names the operation of the one row of the opcode table that covers it, and a word no row covers names none
(R81, R82, R84; numbering: D2). -/
def Obligations.WordsNameTheirTableRow : Prop :=
  ∀ w : Byte, mnemonicsAt w = ((opcodeOf w).map Opcode.mnemonic).toList

/-- Decoding the issue of a well-formed instruction gives it back, operand and all. -/
def Obligations.DecodeEncodeAgree : Prop :=
  ∀ i : Instr, i.wf = true → decode (encode i) = .ok i

/-- An issue has one meaning: what it decodes to is well formed and is issued by exactly that word and operand. -/
def Obligations.DecodedIssueIsItsEncoding : Prop :=
  ∀ (x : Issue) (i : Instr), decode x = .ok i → i.wf = true ∧ encode i = x

/-- An issue is an operation exactly when its word names one and its operand has that operation's format (R83; that other
operands are rejected is the model's, log 6). -/
def Obligations.IssuesDecodeByOperandFormat : Prop :=
  ∀ x : Issue, (∃ i, decode x = .ok i) ↔ ∃ op, opcodeOf x.word = some op ∧ FitsFormat op x.operand

/-- The words of R84 (a), and no others, name no operation: `step` refuses an issue with such a word, by name, whatever its
operand. -/
def Obligations.ReservedWordsRefused : Prop :=
  ∀ (s : State) (x : Issue) (rest : List Issue), s.issued = x :: rest →
    (step s = .refused (.reservedWord x.word) ↔
      (0x02 ≤ x.word.toNat ∧ x.word.toNat ≤ 0x0F) ∨ (0x13 ≤ x.word.toNat ∧ x.word.toNat ≤ 0x1F) ∨
        0x40 ≤ x.word.toNat)

/-- When the next issue decodes to an instruction, `step` is `exec` of it with the issue taken (R80, R60). The two stops are the
model's own: an issue that does not decode is refused (log 6; for the words of R84 (a) the spec says so), and with nothing
issued there is no step (log 4). -/
def Obligations.StepExecutesTheNextIssue : Prop :=
  (∀ (s : State) (x : Issue) (rest : List Issue) (i : Instr), s.issued = x :: rest →
    decode x = .ok i → step s = exec i { s with issued := rest }) ∧
  (∀ (s : State) (x : Issue) (rest : List Issue) (e : DecodeError), s.issued = x :: rest →
    decode x = .error e → step s = .refused (refusalOf x.word e)) ∧
  (∀ s : State, s.issued = [] → step s = .fault .noOperation)

/-- Operations take effect in issue order, one a step: what a step does is `exec` of the oldest issue's instruction in the state
without that issue, and it adds exactly one observation (R56, R60, R80; D1, D29). -/
def Obligations.StepTakesIssuesInOrder : Prop :=
  ∀ s t : State, step s = .next t →
    ∃ x o i, s.issued = x :: t.issued ∧ decode x = .ok i ∧
      exec i { s with issued := t.issued } = .next t ∧ t.observed = s.observed ++ [o]

/-- Every operation completes in every state, for every operand, with exactly one answer, and takes no other operation
with it (R80, R222; D1). -/
def Obligations.EveryOperationAnswersOnce : Prop :=
  ∀ (i : Instr) (s : State),
    ∃ t o, exec i s = .next t ∧ t.issued = s.issued ∧ t.observed = s.observed ++ [o]

/-! ### The framer -/

/-- R101: in SeekPreamble FF starts the count and any other byte is discarded; and any noise without FF, delivered whole,
leaves the framer as it was and emits no frame. -/
def Obligations.SeekPreambleDiscardsUntilPreamble : Prop :=
  (∀ (s : State) (b : Byte), s.framer.phase = .seekPreamble →
    exec (.fpush b) s =
      .next (s.silent
        (if b = 0xFF#8 then { s.framer with phase := .countPreamble, pre := 1 } else s.framer))) ∧
  (∀ (s : State) (noise : Bytes), s.framer.phase = .seekPreamble → s.issued = [] →
    0xFF#8 ∉ noise →
    ∃ t obs, deliver [noise] s = .next t ∧ t.framer = s.framer ∧ t.observed = s.observed ++ obs ∧
      obs = List.replicate noise.length { answer := .result .noFrame, frameReady := false })

/-- R102: in CountPreamble every FF is counted, without a bound (D4, log 12). -/
def Obligations.CountPreambleCountsEveryFF : Prop :=
  ∀ s : State, s.framer.phase = .countPreamble →
    exec (.fpush 0xFF#8) s = .next (s.silent { s.framer with pre := s.framer.pre + 1 })

/-- R103: in CountPreamble a byte other than FF starts the frame exactly if at least two preamble bytes were seen and it is
01, 06, 81 or 86; else the framer goes to S0, whatever the `fmt` that S0 leaves open. No error either way. -/
def Obligations.LimiterCandidateTested : Prop :=
  ∀ (s : State) (b : Byte), s.framer.phase = .countPreamble → b ≠ 0xFF#8 →
    (2 ≤ s.framer.pre → b = 0x01#8 ∨ b = 0x06#8 →
      exec (.fpush b) s = .next (s.silent
        { s.framer with phase := .addressPhase, fmt := .short, rem := 1, body := [b] })) ∧
    (2 ≤ s.framer.pre → b = 0x81#8 ∨ b = 0x86#8 →
      exec (.fpush b) s = .next (s.silent
        { s.framer with phase := .addressPhase, fmt := .long, rem := 5, body := [b] })) ∧
    (s.framer.pre < 2 ∨ (b ≠ 0x01#8 ∧ b ≠ 0x06#8 ∧ b ≠ 0x81#8 ∧ b ≠ 0x86#8) →
      ∃ f : Framer, f.AtReset ∧ exec (.fpush b) s = .next (s.silent f))

/-- R104: in AddressPhase every byte, FF and limiter values included, is taken as an address byte; the last one leads to
CommandPhase. -/
def Obligations.AddressByteTaken : Prop :=
  ∀ (s : State) (b : Byte), s.framer.phase = .addressPhase → s.framer.Inv →
    (s.framer.rem = 1 → exec (.fpush b) s = .next (s.silent
      { s.framer with
        phase := .commandPhase, rem := 0, ext := false, body := s.framer.body ++ [b] })) ∧
    (2 ≤ s.framer.rem → exec (.fpush b) s = .next (s.silent
      { s.framer with rem := s.framer.rem - 1, body := s.framer.body ++ [b] }))

/-- R105: in CommandPhase a first byte FE asks for the extension byte; any other first byte, and any extension byte, FE
included, leads to CounterPhase. -/
def Obligations.CommandByteTaken : Prop :=
  ∀ (s : State) (b : Byte), s.framer.phase = .commandPhase →
    (s.framer.ext = false ∧ b = 0xFE#8 → exec (.fpush b) s = .next (s.silent
      { s.framer with ext := true, body := s.framer.body ++ [b] })) ∧
    (s.framer.ext = true ∨ b ≠ 0xFE#8 → exec (.fpush b) s = .next (s.silent
      { s.framer with phase := .counterPhase, ext := false, body := s.framer.body ++ [b] }))

/-- R106: the counter N is the number of data bytes to consume; N = 0 goes to ChecksumPhase at once (the spec's reading of
"consume N bytes" with N = 0), and the framer does not require N ≥ 2. -/
def Obligations.CounterByteTaken : Prop :=
  ∀ (s : State) (b : Byte), s.framer.phase = .counterPhase →
    exec (.fpush b) s = .next (s.silent
      { s.framer with
        phase := if b.toNat = 0 then .checksumPhase else .dataPhase
        rem := b.toNat
        body := s.framer.body ++ [b] })

/-- R107: in DataPhase every byte is data; the last of the N leads to ChecksumPhase. -/
def Obligations.DataByteTaken : Prop :=
  ∀ (s : State) (b : Byte), s.framer.phase = .dataPhase → s.framer.Inv →
    (s.framer.rem = 1 → exec (.fpush b) s = .next (s.silent
      { s.framer with phase := .checksumPhase, rem := 0, body := s.framer.body ++ [b] })) ∧
    (2 ≤ s.framer.rem → exec (.fpush b) s = .next (s.silent
      { s.framer with rem := s.framer.rem - 1, body := s.framer.body ++ [b] }))

/-- R108, R114, R117: in ChecksumPhase any byte at all completes the frame. The frame is the preamble run, the body and that
byte, it is delivered with one frame-ready event (D5, log 17), and the framer is in S0, whatever the `fmt` that
S0 leaves open. -/
def Obligations.ChecksumByteEmitsTheFrame : Prop :=
  ∀ (s : State) (b : Byte), s.framer.phase = .checksumPhase →
    ∃ f : Framer, f.AtReset ∧ exec (.fpush b) s = .next
      { framer := f
        issued := s.issued
        observed := s.observed ++
          [{ answer := .result (.frame
              (List.replicate s.framer.pre 0xFF#8 ++ s.framer.body ++ [b]))
             frameReady := true }] }

/-- R109: from every state FRESET puts the framer in S0, whatever the `fmt` that S0 leaves open, and returns nothing; a partial
frame is discarded, no event fires; and from S0 it changes nothing that S0 fixes. -/
def Obligations.FresetRestoresS0 : Prop :=
  ∀ s : State, ∃ t,
    exec .freset s = .next t ∧ t.framer.AtReset ∧ t.issued = s.issued ∧
      t.observed = s.observed ++ [{ answer := .result .nothing, frameReady := false }] ∧
      (s.framer.AtReset → s.framer.SameShown t.framer)

/-- R111: FPUSH raises no error in any state for any byte; MalformedFrame is raised by DESER alone, and the framer state is
unaffected by it. -/
def Obligations.FpushNeverRaises : Prop :=
  (∀ (b : Byte) (s : State), ∃ t r ready,
    exec (.fpush b) s = .next t ∧
      t.observed = s.observed ++ [{ answer := .result r, frameReady := ready }]) ∧
  (∀ (i : Instr) (s t : State) (r : FrameReason) (ready : Bool), exec i s = .next t →
    t.observed = s.observed ++ [{ answer := .error (.malformedFrame r), frameReady := ready }] →
    (∃ raw, i = .deser raw) ∧ t.framer = s.framer)

/-- R113: from AddressPhase to DataPhase every byte, FF and limiter values included, is appended to the frame; the framer
keeps its preamble count and format and does not go back to seeking. -/
def Obligations.NoResyncInsideAFrame : Prop :=
  ∀ (s : State) (b : Byte), s.framer.Inv →
    s.framer.phase ≠ .seekPreamble → s.framer.phase ≠ .countPreamble →
    s.framer.phase ≠ .checksumPhase →
    ∃ t, exec (.fpush b) s = .next t ∧ t.framer.body = s.framer.body ++ [b] ∧
      t.framer.pre = s.framer.pre ∧ t.framer.fmt = s.framer.fmt ∧
      t.framer.phase ≠ .seekPreamble ∧ t.framer.phase ≠ .countPreamble

/-- The invariant of R27, with the parts of `body` named, is kept by every step, from every state that has it. -/
def Obligations.StepKeepsFramerInvariant : Prop :=
  ∀ s t : State, s.framer.Inv → step s = .next t → t.framer.Inv

/-- The state after power-on: the framer is in S0, whatever its `fmt` (R28, R262; power-on: D25), and has the invariant;
nothing is issued or observed (the model's fields: log 2, log 3). -/
def Obligations.ResetStateIsS0 : Prop :=
  State.reset.framer.AtReset ∧ State.reset.framer.Inv ∧ State.reset.issued = [] ∧
    State.reset.observed = []

/-- What the invariant says of sizes and counters in R27's own terms, with A = 1 or 5 by `fmt`. -/
def Obligations.InvariantBoundsTheFrame : Prop :=
  ∀ f : Framer, f.Inv →
    f.rem ≤ 255 ∧ f.body.length ≤ 264 ∧
    (f.phase = .addressPhase → f.rem ≤ addressLength f.fmt ∧
      f.body.length = 1 + (addressLength f.fmt - f.rem)) ∧
    (f.phase = .commandPhase →
      (f.ext = false → f.body.length = 1 + addressLength f.fmt) ∧
      (f.ext = true → f.body.length = 2 + addressLength f.fmt ∧
        f.body[1 + addressLength f.fmt]? = some 0xFE#8)) ∧
    (f.phase = .counterPhase →
      f.body.length = 2 + addressLength f.fmt ∨ f.body.length = 3 + addressLength f.fmt) ∧
    (f.phase = .dataPhase ∨ f.phase = .checksumPhase →
      ∃ (front data : Bytes) (n : Byte), f.body = front ++ n :: data ∧
        (front.length = 2 + addressLength f.fmt ∨
          front.length = 3 + addressLength f.fmt ∧ f.body[1 + addressLength f.fmt]? = some 0xFE#8) ∧
        data.length + f.rem = n.toNat ∧ (f.phase = .dataPhase → 1 ≤ f.rem) ∧
        (f.phase = .checksumPhase → f.rem = 0)) ∧
    (f.phase ≠ .seekPreamble → f.phase ≠ .countPreamble → 2 ≤ f.pre ∧
      ∃ (lim : Byte) (rest : Bytes), f.body = lim :: rest ∧
        (lim = 0x01#8 ∨ lim = 0x06#8 ∨ lim = 0x81#8 ∨ lim = 0x86#8))

/-- R118: from a state with the invariant, what an FPUSH emits is a frame of R71's form with at least two preamble bytes, a
framer limiter, the address of its format, a command of one or two bytes, and a counter that equals the number of
bytes before the checksum. -/
def Obligations.EmittedFramesAreFramable : Prop :=
  ∀ (s t : State) (b : Byte) (raw : Bytes) (ready : Bool), s.framer.Inv →
    exec (.fpush b) s = .next t →
    t.observed = s.observed ++ [{ answer := .result (.frame raw), frameReady := ready }] →
    Framable raw

/-- R117: the frame-ready event fires in an operation exactly when it is the FPUSH of a checksum byte, and exactly then the
answer is a frame (once: D5, C8). -/
def Obligations.FrameReadyExactlyAtTheChecksum : Prop :=
  ∀ (i : Instr) (s t : State) (o : Observation), exec i s = .next t →
    t.observed = s.observed ++ [o] →
    (o.frameReady = true ↔ (∃ b, i = .fpush b) ∧ s.framer.phase = .checksumPhase) ∧
    (o.frameReady = true ↔ ∃ raw, o.answer = .result (.frame raw))

/-- R110: how a stream is split into chunks does not matter: chunk after chunk gives what one delivery of all bytes gives, and
it completes. -/
def Obligations.ChunkingDoesNotMatter : Prop :=
  ∀ (chunks : List Bytes) (s : State), s.issued = [] →
    deliver chunks s = deliver [chunks.flatten] s ∧
      ∃ t, deliver chunks s = .next t ∧ t.issued = []

/-- R116: any frames of R71's form, back to back and in any chunks, delivered to a framer in S0, are emitted one by one, each
with its original bytes and one frame-ready event, and the framer ends in S0. -/
def Obligations.BackToBackFramesRecovered : Prop :=
  ∀ (frames chunks : List Bytes) (s : State), s.framer.AtReset → s.issued = [] →
    (∀ raw ∈ frames, Framable raw) → chunks.flatten = frames.flatten →
    ∃ t obs, deliver chunks s = .next t ∧ t.framer.AtReset ∧ t.issued = [] ∧
      t.observed = s.observed ++ obs ∧ framesOf obs = frames ∧ eventsOf obs = frames.length

/-- R115: noise that does not itself contain two FF and a framer limiter in a row, and that ends in a byte other than FF, is
discarded; the frame after it is the only one emitted. -/
def Obligations.ResyncOverNoise : Prop :=
  ∀ (noise raw : Bytes) (s : State), s.framer.AtReset → s.issued = [] →
    (∀ (before after : Bytes) (lim : Byte), framerLimiter lim = true →
      noise ≠ before ++ [0xFF#8, 0xFF#8, lim] ++ after) →
    noise.getLast? ≠ some 0xFF#8 → Framable raw →
    ∃ t obs, deliver [noise ++ raw] s = .next t ∧ t.framer.AtReset ∧
      t.observed = s.observed ++ obs ∧ framesOf obs = [raw] ∧ eventsOf obs = 1

/-- R23, I1: the value of `fmt` before a limiter is recorded is not observable: two states that differ only there answer
every operation alike and go on to differ only there. -/
def Obligations.UnrecordedFormatNotObservable : Prop :=
  ∀ (i : Instr) (s t s' : State), s.framer.SameShown t.framer → s.observed = t.observed →
    exec i s = .next s' →
    ∃ t', exec i t = .next t' ∧ s'.framer.SameShown t'.framer ∧ s'.observed = t'.observed

/-! ### The whole block -/

/-- R29, R223: only FPUSH and FRESET write the framer; every other operation, whether it returns a result or raises an error,
leaves it and the operations still issued unchanged and fires no event. -/
def Obligations.OnlyFramerOperationsWriteTheFramer : Prop :=
  ∀ (i : Instr) (s : State), IsCodec i → ∃ a, Replies i s a

/-- R221, R230: an operation raises only the errors the table gives it; none raises Transport. -/
def Obligations.ErrorsOnlyAsTheTableSays : Prop :=
  ∀ (i : Instr) (s t : State) (e : OpError) (ready : Bool), exec i s = .next t →
    t.observed = s.observed ++ [{ answer := .error e, frameReady := ready }] →
    MayRaise i e ∧ e ≠ .transport

/-- R57: the codec operations and ERRTXT read only their operands and the parameters: in any two states the same operation
gets the same answer. -/
def Obligations.CodecAnswersIndependentOfState : Prop :=
  ∀ (i : Instr) (s t : State) (a b : Answer), IsCodec i → Replies i s a → Replies i t b → a = b

/-! ### FrameCodec -/

/-- R72 to R75: the limiter table. The six bytes by format and mode; each gives its format and mode back; only a batch limiter is
batch; the framer accepts all but the acknowledge ones; and the table's bytes are the only recognized ones (D6, C1). -/
def Obligations.LimiterTable : Prop :=
  (limiterByte .short .batch = 0x01#8 ∧ limiterByte .long .batch = 0x81#8 ∧
    limiterByte .short .onDemand = 0x06#8 ∧ limiterByte .long .onDemand = 0x86#8 ∧
    limiterByte .short .acknowledge = 0x02#8 ∧ limiterByte .long .acknowledge = 0x82#8) ∧
  (∀ (fmt : Format) (mode : Mode),
    knownLimiter (limiterByte fmt mode) = true ∧ limiterFormat (limiterByte fmt mode) = fmt ∧
      limiterMode (limiterByte fmt mode) = some mode ∧
      (isBatchLimiter (limiterByte fmt mode) = true ↔ mode = .batch) ∧
      (framerLimiter (limiterByte fmt mode) = true ↔ mode ≠ .acknowledge)) ∧
  (∀ lim : Byte, knownLimiter lim = true → ∃ fmt mode, lim = limiterByte fmt mode) ∧
  (∀ lim : Byte, isBatchLimiter lim = true ↔ lim = 0x01#8 ∨ lim = 0x81#8) ∧
  (∀ lim : Byte, framerLimiter lim = true ↔
    lim = 0x01#8 ∨ lim = 0x06#8 ∨ lim = 0x81#8 ∨ lim = 0x86#8)

/-- R130, R131, R136 to R142: a response frame of R71's form, with any number of preamble bytes (D13) and any of the six
limiters (C1), deserializes to the Response its fields say. The integer response code is little-endian (D3, log 7). -/
def Obligations.DeserReadsAResponse : Prop :=
  ∀ (s : State) (pre : Nat) (lim : Byte) (addr cmd : Bytes) (n rc0 rc1 : Byte) (data : Bytes)
    (command : CommandField),
    (lim = 0x01#8 ∨ lim = 0x81#8 ∨ lim = 0x06#8 ∨ lim = 0x86#8 ∨ lim = 0x02#8 ∨ lim = 0x82#8) →
    addr.length = (if lim.getLsbD 7 then 5 else 1) →
    ((∃ c0, c0 ≠ 0xFE#8 ∧ cmd = [c0] ∧ command = .single c0) ∨
      (∃ c1, cmd = [0xFE#8, c1] ∧ command = .extended c1)) →
    n.toNat = 2 + data.length →
    Replies
      (.deser (some (List.replicate pre 0xFF#8 ++ lim :: (addr ++ (cmd ++ n :: rc0 :: rc1 :: (data ++
        [xorAll (lim :: (addr ++ (cmd ++ n :: rc0 :: rc1 :: data)))]))))))
      s
      (.result (.response
        { preamble := pre
          fmt := if lim.getLsbD 7 then .long else .short
          isBatchMode := decide (lim = 0x01#8 ∨ lim = 0x81#8)
          limiter := lim
          address := addr
          command := command
          commandNumber :=
            match command with
            | .single c0 => c0.toNat
            | .extended c1 => Config.extCmdValue c1
          rc0 := rc0
          rc1 := rc1
          responseCode := BitVec.ofNat 32 (rc0.toNat + 256 * rc1.toNat)
          communicationError :=
            match Config.errorTable rc0 with
            | .mapped text => text
            | .unmapped => Config.unknownErrorText
          data := data }))

/-- The converse: DESER gives a Response only for a raw frame made of exactly the Response's fields, with a valid checksum, a
counter that counts the response code and the payload, and an address of the limiter's length. -/
def Obligations.DeserAcceptsOnlyResponses : Prop :=
  ∀ (s : State) (raw : Bytes) (r : Response),
    Replies (.deser (some raw)) s (.result (.response r)) →
    ∃ (cmd : Bytes) (n : Byte),
      knownLimiter r.limiter = true ∧ r.fmt = limiterFormat r.limiter ∧
      r.address.length = addressLength r.fmt ∧
      ((∃ c0, c0 ≠ 0xFE#8 ∧ cmd = [c0] ∧ r.command = .single c0) ∨
        (∃ c1, cmd = [0xFE#8, c1] ∧ r.command = .extended c1)) ∧
      n.toNat = 2 + r.data.length ∧
      raw = List.replicate r.preamble 0xFF#8 ++ r.limiter :: (r.address ++ (cmd ++ n :: r.rc0 ::
        r.rc1 :: (r.data ++
          [xorAll (r.limiter :: (r.address ++ (cmd ++ n :: r.rc0 :: r.rc1 :: r.data)))])))

/-- R133: the checksum is compared first. With at least two bytes after the preamble run, DESER raises Integrity exactly if the
fold of all of them but the last differs from the last, whatever they are; and changing the last byte of a frame that
deserializes makes it fail so. -/
def Obligations.DeserChecksumFirst : Prop :=
  (∀ (s : State) (pre : Nat) (body : Bytes) (chk : Byte), body ≠ [] → body.head? ≠ some 0xFF#8 →
    (Replies (.deser (some (List.replicate pre 0xFF#8 ++ body ++ [chk]))) s (.error .integrity) ↔
      xorAll body ≠ chk)) ∧
  (∀ (s : State) (front : Bytes) (good bad : Byte) (r : Response),
    Replies (.deser (some (front ++ [good]))) s (.result (.response r)) → bad ≠ good →
    Replies (.deser (some (front ++ [bad]))) s (.error .integrity))

/-- R132, R134 to R136, R143: the errors of frames whose checksum is consistent, and of frames too short to have one (the
spec's choices D11, D12). -/
def Obligations.DeserFieldErrors : Prop :=
  (∀ (s : State) (pre : Nat) (rest : Bytes), rest.length < 2 → rest.head? ≠ some 0xFF#8 →
    Replies (.deser (some (List.replicate pre 0xFF#8 ++ rest))) s
      (.error (.malformedFrame .truncated))) ∧
  (∀ (s : State) (pre : Nat) (lim : Byte) (rest : Bytes), lim ≠ 0xFF#8 →
    knownLimiter lim = false →
    Replies (.deser (some (List.replicate pre 0xFF#8 ++ lim :: rest ++ [xorAll (lim :: rest)]))) s
      (.error (.malformedFrame .limiter))) ∧
  (∀ (s : State) (pre : Nat) (lim : Byte) (rest : Bytes), knownLimiter lim = true →
    (rest.length ≤ addressLength (limiterFormat lim) ∨
      (∃ addr, addr.length = addressLength (limiterFormat lim) ∧ rest = addr ++ [0xFE#8]) ∨
      (∃ addr cmd, addr.length = addressLength (limiterFormat lim) ∧ CommandWire cmd ∧
        rest = addr ++ cmd)) →
    Replies (.deser (some (List.replicate pre 0xFF#8 ++ lim :: rest ++ [xorAll (lim :: rest)]))) s
      (.error (.malformedFrame .truncated))) ∧
  (∀ (s : State) (pre : Nat) (lim : Byte) (addr cmd : Bytes) (n : Byte) (tail : Bytes),
    knownLimiter lim = true → addr.length = addressLength (limiterFormat lim) →
    CommandWire cmd → (n.toNat ≠ tail.length ∨ n.toNat < 2) →
    Replies (.deser (some (List.replicate pre 0xFF#8 ++ lim :: (addr ++ (cmd ++ n :: tail)) ++
      [xorAll (lim :: (addr ++ (cmd ++ n :: tail)))]))) s
      (.error (.malformedFrame .count)))

/-- R144: DESER of a frame the framer emitted raises Integrity exactly if its last byte is not the exclusive-or of its body;
otherwise Count exactly if the counter, the byte after the limiter, the address and the command, is 0 or 1 (D12); otherwise
it succeeds. It never finds the limiter bad or the frame short. -/
def Obligations.DeserOfEmittedFrames : Prop :=
  ∀ (s t : State) (b : Byte) (raw : Bytes) (ready : Bool), s.framer.Inv →
    exec (.fpush b) s = .next t →
    t.observed = s.observed ++ [{ answer := .result (.frame raw), frameReady := ready }] →
    ∃ (lim : Byte) (addr cmd : Bytes) (n : Byte) (data : Bytes),
      s.framer.body = lim :: (addr ++ (cmd ++ n :: data)) ∧
      addr.length = addressLength (limiterFormat lim) ∧ CommandWire cmd ∧ data.length = n.toNat ∧
      ∀ u : State,
        (xorAll s.framer.body ≠ b → Replies (.deser (some raw)) u (.error .integrity)) ∧
        (xorAll s.framer.body = b → n.toNat < 2 →
          Replies (.deser (some raw)) u (.error (.malformedFrame .count))) ∧
        (xorAll s.framer.body = b → 2 ≤ n.toNat →
          ∃ r, Replies (.deser (some raw)) u (.result (.response r)) ∧
            r.preamble = s.framer.pre ∧ r.limiter = lim ∧ r.address = addr ∧
            [r.rc0, r.rc1] ++ r.data = data)

/-- R145 to R153: SER writes the preamble, the limiter, the address as given, the command in one or two bytes, the payload's
length, the payload and the fold of all but the preamble; more than 255 payload bytes are a range error (D6, D7, D9,
D10; payload included: D8, log 8). -/
def Obligations.SerWritesTheRequestFrame : Prop :=
  ∀ (s : State) (q : Request) (cmd body : Bytes),
    cmd = (if q.command ≤ 253 then [BitVec.ofNat 8 q.command]
      else [0xFE#8, Config.extCmdByte q.command]) →
    body = limiterByte q.fmt q.mode ::
      (q.address ++ cmd ++ [BitVec.ofNat 8 q.data.length] ++ q.data) →
    (q.data.length ≤ 255 → Replies (.ser q) s
      (.result (.bytes (List.replicate q.preamble 0xFF#8 ++ body ++ [xorAll body])))) ∧
    (255 < q.data.length → Replies (.ser q) s (.error (.range .payloadTooLong)))

/-- R150 for the other value of `INCLUDE_REQUEST_PAYLOAD`: with `false` a payload of any length is neither counted nor written
(the parameter's value is D8, log 8). -/
def Obligations.SerWithoutPayload : Prop :=
  ∀ q : Request,
    serialize false q = serialize true { q with data := [] } ∧
      ∃ xs, serialize false q = .ok xs

/-- R154: what SER writes is checksum-consistent, and if the request has at least two preamble bytes, an address of its
format's length and a mode other than Acknowledge, a framer in S0 that is given the bytes emits exactly them, once. It is no response: DESER
of it fails with Count when the address has its format's length and the payload fewer than two bytes. -/
def Obligations.SerializedRequestIsFramed : Prop :=
  ∀ (s u : State) (q : Request) (xs : Bytes), Replies (.ser q) u (.result (.bytes xs)) →
    xorAll (xs.drop q.preamble) = 0#8 ∧
    (2 ≤ q.preamble → q.address.length = addressLength q.fmt → q.mode ≠ .acknowledge →
      s.framer.AtReset → s.issued = [] →
      ∃ t obs o, deliver [xs] s = .next t ∧ t.framer.AtReset ∧
        t.observed = s.observed ++ (obs ++ [o]) ∧ framesOf obs = [] ∧
        o = { answer := .result (.frame xs), frameReady := true }) ∧
    (q.address.length = addressLength q.fmt → q.data.length < 2 →
      Replies (.deser (some xs)) u (.error (.malformedFrame .count)))

/-- R156: ERRTXT never fails: a mapped code gives its text, an unmapped one the generic text. Both are open parameters (D15,
log 10). -/
def Obligations.ErrtxtNeverFails : Prop :=
  ∀ (s : State) (c : Byte),
    (∀ text, Config.errorTable c = .mapped text → Replies (.errtxt c) s (.result (.text text))) ∧
    (Config.errorTable c = .unmapped →
      Replies (.errtxt c) s (.result (.text Config.unknownErrorText)))

/-! ### PrimitiveCodec: encode -/

/-- R171: ENC of the absent operand returns the empty sequence for every tag, the unsupported ones included (absent first:
D17). -/
def Obligations.EncodeAbsentIsEmpty : Prop :=
  ∀ (s : State) (i : Instr) (tag : BitVec 4),
    i ∈ [.encText none, .encF32 none, .encF64 none, .encU16 none, .encU32 none, .encDate none,
      .encFlags none, .encUnsup tag none] →
    Replies i s (.result (.bytes []))

/-- R174: ENC.TEXT writes one byte per character and no terminator: an ASCII code is its own byte, any other character the
open parameter's (D20, log 11). -/
def Obligations.EncodeTextByteForCharacter : Prop :=
  ∀ (s : State) (x : Text), ∃ xs : Bytes,
    Replies (.encText (some x)) s (.result (.bytes xs)) ∧ xs.length = x.length ∧
    ∀ (k c : Nat), x[k]? = some c →
      ∃ b, xs[k]? = some b ∧ (c < 0x80 → b.toNat = c) ∧ (0x80 ≤ c → b = Config.nonasciiEnc c)

/-- R175 to R177: F32, F64 and U16 are written unchanged, all bits, least significant byte first (D3, D21, log 7). -/
def Obligations.EncodeFixedWidthBytes : Prop :=
  (∀ (s : State) (v : BitVec 32), Replies (.encF32 (some v)) s (.result (.bytes
    [v.extractLsb' 0 8, v.extractLsb' 8 8, v.extractLsb' 16 8, v.extractLsb' 24 8]))) ∧
  (∀ (s : State) (v : BitVec 64), Replies (.encF64 (some v)) s (.result (.bytes
    [v.extractLsb' 0 8, v.extractLsb' 8 8, v.extractLsb' 16 8, v.extractLsb' 24 8,
     v.extractLsb' 32 8, v.extractLsb' 40 8, v.extractLsb' 48 8, v.extractLsb' 56 8]))) ∧
  (∀ (s : State) (v : BitVec 16), Replies (.encU16 (some v)) s (.result (.bytes
    [v.extractLsb' 0 8, v.extractLsb' 8 8])))

/-- R178: ENC.U32 writes exactly three bytes up to 16,777,215 and raises Range(OutOfRange) above it (byte order: D3, log 7). -/
def Obligations.EncodeU32Clamped : Prop :=
  ∀ (s : State) (v : BitVec 32),
    (v.toNat ≤ 16777215 → Replies (.encU32 (some v)) s (.result (.bytes
      [v.extractLsb' 0 8, v.extractLsb' 8 8, v.extractLsb' 16 8]))) ∧
    (16777215 < v.toNat → Replies (.encU32 (some v)) s (.error (.range .outOfRange)))

/-- R179: ENC.DATE writes three bytes and never an error; of a calendar date they are day, month and year − 1900, each as its
non-negative remainder by 256 (D19). Of a triple that is no date the spec states no result: the three bytes are then any
(the model's choice: log 29). -/
def Obligations.EncodeDateTruncates : Prop :=
  ∀ (s : State) (d : Date), ∃ b0 b1 b2 : Byte,
    Replies (.encDate (some d)) s (.result (.bytes [b0, b1, b2])) ∧
      (validDate d = true → (b0.toNat : Int) = d.day % 256 ∧ (b1.toNat : Int) = d.month % 256 ∧
        (b2.toNat : Int) = (d.year - 1900) % 256)

/-- R180: ENC.FLAGS of at most 8 flags writes one byte whose bit i is flag i, the bits beyond the flags 0; more than 8 flags
are a range error (bit order: D18). -/
def Obligations.EncodeFlagBits : Prop :=
  ∀ (s : State) (f : FlagSet),
    (f.length ≤ 8 → ∃ b : Byte, Replies (.encFlags (some f)) s (.result (.bytes [b])) ∧
      ∀ k, k < 8 → b.getLsbD k = f.getD k false) ∧
    (8 < f.length → Replies (.encFlags (some f)) s (.error (.range .tooManyFlags)))

/-- R181, R191: a present operand of a type outside the seven raises UnsupportedType with the tag, in both directions and
before any length is looked at (D17). -/
def Obligations.UnsupportedTypesRaise : Prop :=
  ∀ (s : State) (tag : BitVec 4) (v : Value) (xs : Bytes),
    Replies (.encUnsup tag (some v)) s (.error (.unsupportedType tag)) ∧
      Replies (.decUnsup tag (some xs)) s (.error (.unsupportedType tag))

/-! ### PrimitiveCodec: decode -/

/-- R173: DEC of the absent operand raises MissingInput for every tag, the unsupported ones included (absent first: D17). -/
def Obligations.DecodeAbsentMissesInput : Prop :=
  ∀ (s : State) (i : Instr) (tag : BitVec 4),
    i ∈ [.decText none, .decF32 none, .decF64 none, .decU16 none, .decU32 none, .decDate none,
      .decFlags none, .decUnsup tag none] →
    Replies i s (.error .missingInput)

/-- R172: a fixed-width type decodes from exactly its width; any other length is Range(WrongLength), before anything else
is looked at (D16, C7). -/
def Obligations.DecodeWrongLengthRaises : Prop :=
  ∀ (s : State) (xs : Bytes),
    (xs.length ≠ 4 → Replies (.decF32 (some xs)) s (.error (.range .wrongLength))) ∧
    (xs.length ≠ 8 → Replies (.decF64 (some xs)) s (.error (.range .wrongLength))) ∧
    (xs.length ≠ 2 → Replies (.decU16 (some xs)) s (.error (.range .wrongLength))) ∧
    (xs.length ≠ 3 → Replies (.decU32 (some xs)) s (.error (.range .wrongLength))) ∧
    (xs.length ≠ 3 → Replies (.decDate (some xs)) s (.error (.range .wrongLength))) ∧
    (xs.length ≠ 1 → Replies (.decFlags (some xs)) s (.error (.range .wrongLength)))

/-- R184: DEC.TEXT reads one character per byte, of any length, with no terminator: a byte below 0x80 is its own code, any
other the open parameter's (D20, log 11). -/
def Obligations.DecodeTextCharacterForByte : Prop :=
  ∀ (s : State) (xs : Bytes), ∃ x : Text,
    Replies (.decText (some xs)) s (.result (.value (.text x))) ∧ x.length = xs.length ∧
    ∀ (k : Nat) (b : Byte), xs[k]? = some b →
      ∃ c, x[k]? = some c ∧ (b.toNat < 0x80 → c = b.toNat) ∧
        (0x80 ≤ b.toNat → c = Config.nonasciiDec b)

/-- R185 to R188: F32, F64, U16 and U32 decode from any bytes of their width to the bits those bytes give, least significant
byte first; a U32's top byte is 0 (D3, D21, log 7). -/
def Obligations.DecodeFixedWidthValues : Prop :=
  (∀ (s : State) (b0 b1 b2 b3 : Byte),
    Replies (.decF32 (some [b0, b1, b2, b3])) s
      (.result (.value (.f32 (b3 ++ b2 ++ b1 ++ b0))))) ∧
  (∀ (s : State) (b0 b1 b2 b3 b4 b5 b6 b7 : Byte),
    Replies (.decF64 (some [b0, b1, b2, b3, b4, b5, b6, b7])) s
      (.result (.value (.f64 (b7 ++ b6 ++ b5 ++ b4 ++ b3 ++ b2 ++ b1 ++ b0))))) ∧
  (∀ (s : State) (b0 b1 : Byte),
    Replies (.decU16 (some [b0, b1])) s (.result (.value (.u16 (b1 ++ b0))))) ∧
  (∀ (s : State) (b0 b1 b2 : Byte),
    Replies (.decU32 (some [b0, b1, b2])) s (.result (.value (.u32 (0#8 ++ b2 ++ b1 ++ b0)))))

/-- R189: DEC.DATE of three bytes gives day, month and byte + 1900, if they are a date of the Gregorian calendar (the check is
D19, the calendar G4, log 14); else Range(InvalidDate). -/
def Obligations.DecodeDateChecked : Prop :=
  ∀ (s : State) (d m y : Byte) (year days : Nat), year = y.toNat + 1900 →
    days = (if m.toNat = 2 then
        (if year % 4 = 0 ∧ year % 100 ≠ 0 ∨ year % 400 = 0 then 29 else 28)
      else if m.toNat ∈ [4, 6, 9, 11] then 30 else 31) →
    (1 ≤ m.toNat ∧ m.toNat ≤ 12 ∧ 1 ≤ d.toNat ∧ d.toNat ≤ days →
      Replies (.decDate (some [d, m, y])) s
        (.result (.value (.date ⟨d.toNat, m.toNat, year⟩)))) ∧
    (¬(1 ≤ m.toNat ∧ m.toNat ≤ 12 ∧ 1 ≤ d.toNat ∧ d.toNat ≤ days) →
      Replies (.decDate (some [d, m, y])) s (.error (.range .invalidDate)))

/-- R190: DEC.FLAGS of one byte gives 8 flags, flag i being bit i (D18). -/
def Obligations.DecodeFlagBits : Prop :=
  ∀ (s : State) (b : Byte), ∃ f : FlagSet,
    Replies (.decFlags (some [b])) s (.result (.value (.flags f))) ∧ f.length = 8 ∧
      ∀ k, k < 8 → f[k]? = some (b.getLsbD k)

/-- R53, R193: under either byte order the bytes of a number are as many as asked, give the number back, and the two orders
are each other's reverse. -/
def Obligations.BytesOfANumberRoundTrip : Prop :=
  ∀ (order : ByteOrder) (n v : Nat), v < 256 ^ n →
    (toBytes order n v).length = n ∧ fromBytes order (toBytes order n v) = v ∧
      toBytes .bigEndian n v = (toBytes .littleEndian n v).reverse

/-- R193: decoding what ENC wrote gives the value back, bit for bit: every F32 and F64 pattern, every U16, every U32 up to
16,777,215, every valid date of the years 1900 to 2155, every set of 8 flags and every ASCII text. -/
def Obligations.PrimitivesRoundTrip : Prop :=
  ∀ (s u : State) (xs : Bytes),
    (∀ v, Replies (.encF32 (some v)) s (.result (.bytes xs)) →
      Replies (.decF32 (some xs)) u (.result (.value (.f32 v)))) ∧
    (∀ v, Replies (.encF64 (some v)) s (.result (.bytes xs)) →
      Replies (.decF64 (some xs)) u (.result (.value (.f64 v)))) ∧
    (∀ v, Replies (.encU16 (some v)) s (.result (.bytes xs)) →
      Replies (.decU16 (some xs)) u (.result (.value (.u16 v)))) ∧
    (∀ v, Replies (.encU32 (some v)) s (.result (.bytes xs)) →
      Replies (.decU32 (some xs)) u (.result (.value (.u32 v)))) ∧
    (∀ d, validDate d = true → 1900 ≤ d.year → d.year ≤ 2155 →
      Replies (.encDate (some d)) s (.result (.bytes xs)) →
      Replies (.decDate (some xs)) u (.result (.value (.date d)))) ∧
    (∀ f, f.length = 8 → Replies (.encFlags (some f)) s (.result (.bytes xs)) →
      Replies (.decFlags (some xs)) u (.result (.value (.flags f)))) ∧
    (∀ x, (∀ c ∈ x, c < 0x80) → Replies (.encText (some x)) s (.result (.bytes xs)) →
      Replies (.decText (some xs)) u (.result (.value (.text x))))

/-! ### Where no result is stated -/

/-- DESER of the absent operand (admitted by R83's format column; no rule states the answer: log 28) runs like any other codec
operation: it gives one answer, the same in every state, which is a Response or one of the errors R221 gives DESER. -/
def Obligations.DeserOfAbsentAnswers : Prop :=
  ∃ a : Answer, (∀ s : State, Replies (.deser none) s a) ∧
    ((∃ r, a = .result (.response r)) ∨ ∃ e, a = .error e ∧ MayRaise (.deser none) e)
end

