-- ==== Sys2Proof/Laws/Decode.lean ====
section
/-!
SUPPORT. Operation words and operations correspond one to one (R81, R82); what each operand format takes.
-/

namespace Sys2Proof

/-- The operation's tag, where it has one, is a tag of no supported type (R82). -/
def Opcode.tagOk : Opcode → Bool
  | .encUnsup tag => unsupportedTag tag
  | .decUnsup tag => unsupportedTag tag
  | _ => true

theorem opcodeOf_encUnsup_word : ∀ tag : BitVec 4, unsupportedTag tag = true →
    opcodeOf (0x2#4 ++ tag) = some (.encUnsup tag) := by decide

theorem opcodeOf_decUnsup_word : ∀ tag : BitVec 4, unsupportedTag tag = true →
    opcodeOf (0x3#4 ++ tag) = some (.decUnsup tag) := by decide

/-- An operation's word names it. -/
theorem opcodeOf_word (op : Opcode) (h : op.tagOk = true) : opcodeOf op.word = some op := by
  cases op with
  | encUnsup tag => exact opcodeOf_encUnsup_word tag h
  | decUnsup tag => exact opcodeOf_decUnsup_word tag h
  | _ => decide

/-- A word that names an operation is that operation's word, and a tag it carries is of no supported type. -/
theorem word_of_opcodeOf : ∀ w : Byte, ∀ op ∈ opcodeOf w, op.word = w ∧ op.tagOk = true := by decide

theorem takeBytes_bytesOperand (xs : Option Bytes) : takeBytes (bytesOperand xs) = .ok xs := by
  cases xs <;> rfl

theorem takeBytes_ok {o : Operand} {xs : Option Bytes} (h : takeBytes o = .ok xs) :
    bytesOperand xs = o := by
  cases o <;> simp only [takeBytes, Except.ok.injEq, reduceCtorEq] at h <;> subst h <;> rfl

theorem takeValue_valueOperand {α : Type} {pick : Value → Option α} {mk : α → Value}
    (h : ∀ a, pick (mk a) = some a) (v : Option α) :
    takeValue pick (valueOperand (v.map mk)) = .ok v := by
  cases v with
  | none => rfl
  | some a => simp [takeValue, valueOperand, h a]

theorem takeValue_ok {α : Type} {pick : Value → Option α} {mk : α → Value}
    (h : ∀ v a, pick v = some a → mk a = v) {o : Operand} {v : Option α}
    (hv : takeValue pick o = .ok v) : valueOperand (v.map mk) = o := by
  cases o with
  | absent =>
    simp only [takeValue, Except.ok.injEq] at hv
    subst hv
    rfl
  | value w =>
    simp only [takeValue] at hv
    split at hv
    · rename_i a ha
      simp only [Except.ok.injEq] at hv
      subst hv
      simp [valueOperand, h w a ha]
    · cases hv
  | _ => cases hv

end Sys2Proof
end

