-- ==== Sys2Proof/Laws/Operands.lean ====
section
/-!
SUPPORT. What the operand forms compute: lengths, round trips and the algebra of the checksum fold.
-/

namespace Sys2Proof.Machine

@[simp] theorem leBytes_length (n v : Nat) : (leBytes n v).length = n := by
  induction n generalizing v with
  | zero => rfl
  | succ n ih => simp [leBytes, ih]

/-- The bytes of a number give back the number modulo the width. -/
theorem leValue_leBytes (n v : Nat) : leValue (leBytes n v) = v % 256 ^ n := by
  induction n generalizing v with
  | zero => simp [leBytes, leValue, Nat.mod_one]
  | succ n ih =>
    have h : v % (256 * 256 ^ n) = v % 256 + 256 * (v / 256 % 256 ^ n) := Nat.mod_mul
    simp [leBytes, leValue, ih, pow_succ, Nat.mul_comm (256 ^ n) 256, h]

/-- A number of `n` bytes is below 256^n. -/
theorem leValue_lt (xs : Bytes) : leValue xs < 256 ^ xs.length := by
  induction xs with
  | nil => simp [leValue]
  | cons b bs ih =>
    have := b.isLt
    simp only [leValue, List.length_cons, pow_succ]
    omega

@[simp] theorem xorFold_append (xs ys : Bytes) : xorFold (xs ++ ys) = xorFold xs ^^^ xorFold ys := by
  induction xs with
  | nil => simp [xorFold]
  | cons b bs ih => simp [xorFold, ih, BitVec.xor_assoc]

/-- The fold from the left (R11) is the fold the model computes. -/
theorem foldl_xor_eq (xs : Bytes) (acc : Byte) : xs.foldl (· ^^^ ·) acc = acc ^^^ xorFold xs := by
  induction xs generalizing acc with
  | nil => simp [xorFold]
  | cons b bs ih => simp [xorFold, ih, BitVec.xor_assoc]

@[simp] theorem preambleRun_length (n : Nat) : (preambleRun n).length = n := by
  simp [preambleRun]

/-- The preamble count of a run followed by something that does not go on with the symbol (R131). -/
theorem preambleCount_run_append (n : Nat) (xs : Bytes) (h : xs.head? ≠ some preambleSymbol) :
    preambleCount (preambleRun n ++ xs) = n := by
  induction n with
  | zero =>
    cases xs with
    | nil => rfl
    | cons b bs => simp_all [preambleCount, preambleRun]
  | succ n ih =>
    simp only [preambleRun] at ih
    simp [preambleCount, preambleRun, List.replicate_succ, ih]

/-- Every byte sequence is its preamble run and a rest that does not begin with the symbol (R131). -/
theorem preambleCount_spec (xs : Bytes) :
    xs = preambleRun (preambleCount xs) ++ xs.drop (preambleCount xs) ∧
      (xs.drop (preambleCount xs)).head? ≠ some preambleSymbol := by
  induction xs with
  | nil => simp [preambleCount, preambleRun]
  | cons b bs ih =>
    by_cases h : b = preambleSymbol
    · simp only [preambleCount, h, if_true, preambleRun, List.replicate_succ, List.cons_append,
        List.drop_succ_cons, List.cons.injEq, true_and]
      exact ih
    · simp [preambleCount, h, preambleRun]

/-- No limiter is the preamble symbol (R72). -/
theorem knownLimiter_ne_preamble {lim : Byte} (h : knownLimiter lim = true) :
    lim ≠ preambleSymbol := by
  rintro rfl
  exact absurd h (by decide)

/-- The framer's limiters are among the recognized ones (R72, R75). -/
theorem framerLimiter_known {lim : Byte} (h : framerLimiter lim = true) : knownLimiter lim = true := by
  simp only [framerLimiter, knownLimiter, Bool.or_eq_true, beq_iff_eq] at h ⊢
  tauto

/-- Bit `k` of the sum of the set flags' powers of two is flag `k` (R180). -/
theorem flagSum_testBit (f : FlagSet) (k : Nat) : (flagSum f).testBit k = f.getD k false := by
  induction f generalizing k with
  | nil => simp [flagSum]
  | cons b fs ih =>
    cases k with
    | zero => cases b <;> simp [flagSum, Nat.testBit_zero]
    | succ k =>
      have h : ((if b then 1 else 0) + 2 * flagSum fs) / 2 = flagSum fs := by
        cases b
        · simp
        · simp only [if_true]; omega
      simp [flagSum, Nat.testBit_succ, h, ih]

end Sys2Proof.Machine
end

