-- ==== Sys2Proof/Laws/State.lean ====
section
/-!
SUPPORT. One lemma per field per update of State, so that no proof unfolds a record update; and what taking an issue does.
-/

namespace Sys2Proof.Machine

@[simp] theorem State.observe_framer (a : Answer) (r : Bool) (s : State) :
    (s.observe a r).framer = s.framer := rfl
@[simp] theorem State.observe_issued (a : Answer) (r : Bool) (s : State) :
    (s.observe a r).issued = s.issued := rfl
@[simp] theorem State.observe_observed (a : Answer) (r : Bool) (s : State) :
    (s.observe a r).observed = s.observed ++ [{ answer := a, frameReady := r }] := rfl

@[simp] theorem State.answer_framer (r : Result) (s : State) : (s.answer r).framer = s.framer := rfl
@[simp] theorem State.answer_issued (r : Result) (s : State) : (s.answer r).issued = s.issued := rfl
@[simp] theorem State.answer_observed (r : Result) (s : State) :
    (s.answer r).observed = s.observed ++ [{ answer := .result r, frameReady := false }] := rfl

@[simp] theorem State.raise_framer (e : OpError) (s : State) : (s.raise e).framer = s.framer := rfl
@[simp] theorem State.raise_issued (e : OpError) (s : State) : (s.raise e).issued = s.issued := rfl
@[simp] theorem State.raise_observed (e : OpError) (s : State) :
    (s.raise e).observed = s.observed ++ [{ answer := .error e, frameReady := false }] := rfl

@[simp] theorem State.emit_framer (raw : Bytes) (s : State) : (s.emit raw).framer = s.framer := rfl
@[simp] theorem State.emit_issued (raw : Bytes) (s : State) : (s.emit raw).issued = s.issued := rfl
@[simp] theorem State.emit_observed (raw : Bytes) (s : State) :
    (s.emit raw).observed =
      s.observed ++ [{ answer := .result (.frame raw), frameReady := true }] := rfl

@[simp] theorem State.setFramer_framer (f : Framer) (s : State) : (s.setFramer f).framer = f := rfl
@[simp] theorem State.setFramer_issued (f : Framer) (s : State) :
    (s.setFramer f).issued = s.issued := rfl
@[simp] theorem State.setFramer_observed (f : Framer) (s : State) :
    (s.setFramer f).observed = s.observed := rfl

@[simp] theorem State.issueFirst_framer (x : Issue) (s : State) :
    (s.issueFirst x).framer = s.framer := rfl
@[simp] theorem State.issueFirst_issued (x : Issue) (s : State) :
    (s.issueFirst x).issued = x :: s.issued := rfl
@[simp] theorem State.issueFirst_observed (x : Issue) (s : State) :
    (s.issueFirst x).observed = s.observed := rfl

/-- A codec's reply is one observation without an event, whether it is a result or an error. -/
theorem State.reply_eq_observe (a : Answer) (s : State) : s.reply a = s.observe a false := by
  cases a <;> rfl

@[simp] theorem State.reply_framer (a : Answer) (s : State) : (s.reply a).framer = s.framer := by
  simp [State.reply_eq_observe]
@[simp] theorem State.reply_issued (a : Answer) (s : State) : (s.reply a).issued = s.issued := by
  simp [State.reply_eq_observe]
@[simp] theorem State.reply_observed (a : Answer) (s : State) :
    (s.reply a).observed = s.observed ++ [{ answer := a, frameReady := false }] := by
  simp [State.reply_eq_observe]

/-- An operation's answer is a result exactly of the value it returns, and an error exactly of the one it raises. -/
theorem answerWith_eq_result {α : Type} {result : α → Result} {x : Except OpError α} {r : Result} :
    answerWith result x = .result r ↔ ∃ v, x = .ok v ∧ result v = r := by
  cases x <;> simp [answerWith]
theorem answerWith_eq_error {α : Type} {result : α → Result} {x : Except OpError α} {e : OpError} :
    answerWith result x = .error e ↔ x = .error e := by
  cases x <;> simp [answerWith]

theorem State.fetch_nil {s : State} (h : s.issued = []) : s.fetch = none := by
  simp [State.fetch, h]

theorem State.fetch_cons {s : State} {x : Issue} {rest : List Issue} (h : s.issued = x :: rest) :
    s.fetch = some (x, { s with issued := rest }) := by
  simp [State.fetch, h]

end Sys2Proof.Machine
end

