-- ==== Sys2Proof/Laws/FrameCodec.lean ====
section
/-!
SUPPORT. What DESER's field readers take: each succeeds exactly on the bytes of its field followed by the rest it leaves.
-/

namespace Sys2Proof.Machine

theorem readField_append {n : Nat} {field rest : Bytes} (h : field.length = n) :
    readField n (field ++ rest) = .ok (field, rest) := by
  subst h
  simp [readField]

theorem readField_ok {n : Nat} {xs field rest : Bytes} (h : readField n xs = .ok (field, rest)) :
    xs = field ++ rest ∧ field.length = n := by
  unfold readField at h
  split at h
  · cases h
  · simp only [Except.ok.injEq, Prod.mk.injEq] at h
    obtain ⟨rfl, rfl⟩ := h
    simp
    omega

theorem readCommand_single {c0 : Byte} {rest : Bytes} (h : c0 ≠ 0xFE#8) :
    readCommand (c0 :: rest) = .ok (.single c0, rest) := by
  simp [readCommand, extensionByte, h]

theorem readCommand_extended {c1 : Byte} {rest : Bytes} :
    readCommand (0xFE#8 :: c1 :: rest) = .ok (.extended c1, rest) := by
  simp [readCommand, extensionByte]

theorem readCommand_ok {xs rest : Bytes} {c : CommandField} (h : readCommand xs = .ok (c, rest)) :
    (∃ c0, c0 ≠ 0xFE#8 ∧ xs = [c0] ++ rest ∧ c = .single c0) ∨
      ∃ c1, xs = [0xFE#8, c1] ++ rest ∧ c = .extended c1 := by
  unfold readCommand at h
  split at h
  · cases h
  · rename_i c0 tail
    split at h
    · rename_i hc
      split at h
      · cases h
      · simp only [Except.ok.injEq, Prod.mk.injEq] at h
        obtain ⟨rfl, rfl⟩ := h
        exact .inr ⟨_, by simp [hc, extensionByte], rfl⟩
    · rename_i hc
      simp only [Except.ok.injEq, Prod.mk.injEq] at h
      obtain ⟨rfl, rfl⟩ := h
      exact .inl ⟨c0, hc, rfl, rfl⟩

theorem readCounted_ok {xs data : Bytes} {rc0 rc1 : Byte}
    (h : readCounted xs = .ok (rc0, rc1, data)) :
    ∃ n : Byte, xs = n :: rc0 :: rc1 :: data ∧ n.toNat = 2 + data.length := by
  unfold readCounted at h
  split at h
  · cases h
  · rename_i n rest
    split at h
    · cases h
    · rename_i hn
      split at h
      · simp only [Except.ok.injEq, Prod.mk.injEq] at h
        obtain ⟨rfl, rfl, rfl⟩ := h
        simp only [ne_eq, Decidable.not_not, List.length_cons] at hn
        exact ⟨n, rfl, by omega⟩
      · cases h

theorem readCounted_mk {n rc0 rc1 : Byte} {data : Bytes} (h : n.toNat = 2 + data.length) :
    readCounted (n :: rc0 :: rc1 :: data) = .ok (rc0, rc1, data) := by
  simp [readCounted, h]
  omega

end Sys2Proof.Machine
end

