-- ==== Sys2Proof/Laws/Framer.lean ====
section
/-!
SUPPORT. What one framer transition does, phase by phase, and what FPUSH and FRESET do to the state.
-/

namespace Sys2Proof.Machine

section
variable {f : Framer}

theorem Framer.push_seek (h : f.phase = .seekPreamble) (b : Byte) : f.push b = (f.pushSeek b, none) := by
  simp [Framer.push, h]
theorem Framer.push_count (h : f.phase = .countPreamble) (b : Byte) :
    f.push b = (f.pushCount b, none) := by
  simp [Framer.push, h]
theorem Framer.push_address (h : f.phase = .addressPhase) (b : Byte) :
    f.push b = (f.pushAddress b, none) := by
  simp [Framer.push, h]
theorem Framer.push_command (h : f.phase = .commandPhase) (b : Byte) :
    f.push b = (f.pushCommand b, none) := by
  simp [Framer.push, h]
theorem Framer.push_counter (h : f.phase = .counterPhase) (b : Byte) :
    f.push b = (f.pushCounter b, none) := by
  simp [Framer.push, h]
theorem Framer.push_data (h : f.phase = .dataPhase) (b : Byte) : f.push b = (f.pushData b, none) := by
  simp [Framer.push, h]
theorem Framer.push_checksum (h : f.phase = .checksumPhase) (b : Byte) :
    f.push b = (Framer.reset, some (f.completed b)) := by
  simp [Framer.push, h]

end

/-- A transition emits a frame only in ChecksumPhase, and then it is the completed one and the framer is reset (R108). -/
theorem Framer.push_emits {f : Framer} {b : Byte} {raw : Bytes} (h : (f.push b).2 = some raw) :
    f.phase = .checksumPhase ∧ raw = f.completed b ∧ (f.push b).1 = Framer.reset := by
  cases hp : f.phase <;> simp_all [Framer.push]

/-- What the host observes of an FPUSH: the frame with its event, or `none` without one (R100, R117). -/
def pushObservation : Option Bytes → Observation
  | none => { answer := .result .noFrame, frameReady := false }
  | some raw => { answer := .result (.frame raw), frameReady := true }

/-- The state after an FPUSH, written out. -/
theorem execFpush_eq (b : Byte) (s : State) :
    execFpush b s = .next
      { framer := (s.framer.push b).1
        issued := s.issued
        observed := s.observed ++ [pushObservation (s.framer.push b).2] } := by
  unfold execFpush
  rcases s.framer.push b with ⟨f, _ | raw⟩ <;> rfl

theorem execFreset_eq (s : State) :
    execFreset s = .next
      { framer := Framer.reset
        issued := s.issued
        observed := s.observed ++ [{ answer := .result .nothing, frameReady := false }] } := rfl

end Sys2Proof.Machine
end

