-- ==== Sys2Proof/Laws/PerInstr.lean ====
section
/-!
SUPPORT. A statement made per instruction: the word a well-formed instruction is issued with lies in exactly one kind of row of the
opcode table, its own.
-/

namespace Sys2Proof.Laws.TableRow

/-- The one mnemonic of the opcode table at the instruction's word is the instruction's. -/
def Statement (i : Instr) : Prop :=
  i.wf = true → mnemonicsAt (encode i).word = [i.opcode.mnemonic]

/-- Every operation with a word of its own lies in its one row. -/
theorem fixed_rows : ∀ op ∈ [Opcode.fpush, .freset, .deser, .ser, .errtxt, .encText, .encF32, .encF64,
    .encU16, .encU32, .encDate, .encFlags, .decText, .decF32, .decF64, .decU16, .decU32, .decDate,
    .decFlags], mnemonicsAt op.word = [op.mnemonic] := by decide

theorem fpush (b : Byte) : Statement (.fpush b) :=
  fun _ => fixed_rows .fpush (by decide)
theorem freset : Statement .freset :=
  fun _ => fixed_rows .freset (by decide)
theorem deser (raw : Option Bytes) : Statement (.deser raw) :=
  fun _ => fixed_rows .deser (by decide)
theorem ser (q : Request) : Statement (.ser q) :=
  fun _ => fixed_rows .ser (by decide)
theorem errtxt (c : Byte) : Statement (.errtxt c) :=
  fun _ => fixed_rows .errtxt (by decide)
theorem encText (x : Option Text) : Statement (.encText x) :=
  fun _ => fixed_rows .encText (by decide)
theorem encF32 (v : Option (BitVec 32)) : Statement (.encF32 v) :=
  fun _ => fixed_rows .encF32 (by decide)
theorem encF64 (v : Option (BitVec 64)) : Statement (.encF64 v) :=
  fun _ => fixed_rows .encF64 (by decide)
theorem encU16 (v : Option (BitVec 16)) : Statement (.encU16 v) :=
  fun _ => fixed_rows .encU16 (by decide)
theorem encU32 (v : Option (BitVec 32)) : Statement (.encU32 v) :=
  fun _ => fixed_rows .encU32 (by decide)
theorem encDate (d : Option Date) : Statement (.encDate d) :=
  fun _ => fixed_rows .encDate (by decide)
theorem encFlags (f : Option FlagSet) : Statement (.encFlags f) :=
  fun _ => fixed_rows .encFlags (by decide)
theorem decText (xs : Option Bytes) : Statement (.decText xs) :=
  fun _ => fixed_rows .decText (by decide)
theorem decF32 (xs : Option Bytes) : Statement (.decF32 xs) :=
  fun _ => fixed_rows .decF32 (by decide)
theorem decF64 (xs : Option Bytes) : Statement (.decF64 xs) :=
  fun _ => fixed_rows .decF64 (by decide)
theorem decU16 (xs : Option Bytes) : Statement (.decU16 xs) :=
  fun _ => fixed_rows .decU16 (by decide)
theorem decU32 (xs : Option Bytes) : Statement (.decU32 xs) :=
  fun _ => fixed_rows .decU32 (by decide)
theorem decDate (xs : Option Bytes) : Statement (.decDate xs) :=
  fun _ => fixed_rows .decDate (by decide)
theorem decFlags (xs : Option Bytes) : Statement (.decFlags xs) :=
  fun _ => fixed_rows .decFlags (by decide)

/-- Every tag 7..15 of unit 2 lies in the two ENC.UNSUP rows. -/
theorem unsup_enc_rows : ∀ tag : BitVec 4, unsupportedTag tag = true →
    mnemonicsAt (0x2#4 ++ tag) = ["ENC.UNSUP"] := by decide

/-- Every tag 7..15 of unit 3 lies in the two DEC.UNSUP rows. -/
theorem unsup_dec_rows : ∀ tag : BitVec 4, unsupportedTag tag = true →
    mnemonicsAt (0x3#4 ++ tag) = ["DEC.UNSUP"] := by decide

theorem encUnsup (tag : BitVec 4) (v : Option Value) : Statement (.encUnsup tag v) :=
  unsup_enc_rows tag
theorem decUnsup (tag : BitVec 4) (xs : Option Bytes) : Statement (.decUnsup tag xs) :=
  unsup_dec_rows tag

end Sys2Proof.Laws.TableRow
end

