-- ==== Sys2Proof/Tests/Slice0.lean ====
section
/-!
SUPPORT. Tests with expected results from the spec's vectors (95_test_vectors.md, named in the comments) and from its encodings written
out by hand; the smoke tests of well-formedness; and a witness for the hypotheses of every statement that has some.
-/

namespace Sys2Proof.Tests
open Sys2Proof.Machine

/-! ### Small states and readers -/

/-- A state with this framer, nothing issued and nothing observed. -/
def withFramer (f : Framer) : State := { framer := f, issued := [], observed := [] }

/-- SeekPreamble, CountPreamble and so on: one framer state per phase, as in the vectors F1 to F19. -/
def seek : Framer := ⟨.seekPreamble, 0, .short, 0, false, []⟩
def count (pre : Nat) : Framer := ⟨.countPreamble, pre, .short, 0, false, []⟩
def address1 : Framer := ⟨.addressPhase, 2, .short, 1, false, [0x06#8]⟩
def address5 : Framer := ⟨.addressPhase, 2, .long, 5, false, [0x86#8]⟩
def command : Framer := ⟨.commandPhase, 2, .short, 0, false, [0x06#8, 0x05#8]⟩
def extension : Framer := ⟨.commandPhase, 2, .short, 0, true, [0x06#8, 0x05#8, 0xFE#8]⟩
def counter : Framer := ⟨.counterPhase, 2, .short, 0, false, [0x06#8, 0x05#8, 0x00#8]⟩
def data (n : Byte) : Framer := ⟨.dataPhase, 2, .short, n.toNat, false, [0x06#8, 0x05#8, 0x00#8, n]⟩
def checksum : Framer := ⟨.checksumPhase, 2, .short, 0, false, [0x06#8, 0x05#8, 0x00#8, 0x00#8]⟩

/-- What an instruction answers in a fresh state. -/
def answerOf (i : Instr) : Option Answer :=
  match exec i (withFramer seek) with
  | .next t => t.observed.getLast?.map (·.answer)
  | _ => none

/-- The framer and the observations after an FPUSH. -/
def pushed (f : Framer) (b : Byte) : Option (Framer × List Observation) :=
  match exec (.fpush b) (withFramer f) with
  | .next t => some (t.framer, t.observed)
  | _ => none

/-- The observation of an FPUSH that emits nothing. -/
def noFrame : Observation := { answer := .result .noFrame, frameReady := false }

/-- The framer's fields but `fmt`: those of S0 that have a value (R28). -/
structure Shown where
  phase : Phase
  pre : Nat
  rem : Nat
  ext : Bool
  body : Bytes
  deriving DecidableEq, Repr
def shown (f : Framer) : Shown := ⟨f.phase, f.pre, f.rem, f.ext, f.body⟩

/-- The frame of L1 V1. -/
def v1 : Bytes :=
  [0xFF#8, 0xFF#8, 0xFF#8, 0xFF#8, 0xFF#8, 0xFF#8, 0xFF#8, 0x06#8, 0x80#8, 0x00#8, 0x0E#8, 0x00#8, 0x00#8,
   0xFE#8, 0xFE#8, 0x96#8, 0x08#8, 0x05#8, 0x4E#8, 0x04#8, 0x01#8, 0x00#8, 0x00#8, 0x00#8, 0x00#8, 0x58#8]

/-- The Response DESER reads, if it reads one. -/
def responseOf (raw : Bytes) : Option Response :=
  match deserialize raw with
  | .ok r => some r
  | .error _ => none

/-- Response V1 without the fields that open parameters give. -/
theorem test_deser_V1 :
    (responseOf v1).map (fun r => (r.preamble, r.fmt, r.isBatchMode, r.limiter, r.address)) =
      some (7, .short, false, 0x06#8, [0x80#8]) ∧
    (responseOf v1).map (fun r => (r.command, r.rc0, r.rc1, r.responseCode, r.data.length)) =
      some (.single 0x00#8, 0x00#8, 0x00#8, 0#32, 12) := by decide

/-- D9: the integer response code takes byte 0 as its low byte. -/
theorem test_deser_D9 :
    (responseOf [0xFF#8, 0xFF#8, 0x06#8, 0x05#8, 0x00#8, 0x02#8, 0x34#8, 0x12#8, 0x27#8]).map
      (fun r => (r.rc0, r.rc1, r.responseCode)) = some (0x34#8, 0x12#8, 4660#32) := by decide

/-! ### Framer vectors -/

/-- F2 and F3: FF starts and continues the count. -/
theorem test_fpush_F2_F3 :
    pushed seek 0xFF#8 = some ({ seek with phase := .countPreamble, pre := 1 }, [noFrame]) ∧
    pushed (count 3) 0xFF#8 = some (count 4, [noFrame]) := by decide

/-- F4, F5, F7: too few preamble bytes, and limiters that are not the framer's. -/
theorem test_fpush_F4_F5_F7 :
    (pushed (count 1) 0x06#8).map (fun r => shown r.1) = some ⟨.seekPreamble, 0, 0, false, []⟩ ∧
    (pushed (count 2) 0x02#8).map (fun r => shown r.1) = some ⟨.seekPreamble, 0, 0, false, []⟩ ∧
    (pushed (count 2) 0x80#8).map (fun r => shown r.1) = some ⟨.seekPreamble, 0, 0, false, []⟩ := by
  decide

/-- F8: a long limiter. -/
theorem test_fpush_F8 : pushed (count 2) 0x86#8 = some (address5, [noFrame]) := by decide

/-- F10: FF is an address byte. -/
theorem test_fpush_F10 :
    pushed address1 0xFF#8 =
      some (⟨.commandPhase, 2, .short, 0, false, [0x06#8, 0xFF#8]⟩, [noFrame]) := by decide

/-- F11, F12, F13: the extension byte, FE as one, and FF as a command. -/
theorem test_fpush_F11_F12_F13 :
    pushed command 0xFE#8 = some (extension, [noFrame]) ∧
    pushed extension 0xFE#8 =
      some (⟨.counterPhase, 2, .short, 0, false, [0x06#8, 0x05#8, 0xFE#8, 0xFE#8]⟩, [noFrame]) ∧
    pushed command 0xFF#8 =
      some (⟨.counterPhase, 2, .short, 0, false, [0x06#8, 0x05#8, 0xFF#8]⟩, [noFrame]) := by decide

/-- F14, F15: counters 0 and 1. -/
theorem test_fpush_F14_F15 :
    pushed counter 0x00#8 = some (checksum, [noFrame]) ∧
    pushed counter 0x01#8 = some (data 1#8, [noFrame]) := by decide

/-- F16: the last data byte. -/
theorem test_fpush_F16 :
    pushed (data 1#8) 0xFF#8 =
      some (⟨.checksumPhase, 2, .short, 0, false, [0x06#8, 0x05#8, 0x00#8, 0x01#8, 0xFF#8]⟩, [noFrame]) := by
  decide

/-- F17: the checksum byte is not checked; the frame and one event go out, and the framer is in S0. -/
theorem test_fpush_F17 :
    (pushed checksum 0x77#8).map (fun r => (shown r.1, r.2)) =
      some (⟨.seekPreamble, 0, 0, false, []⟩,
        [{ answer := .result (.frame [0xFF#8, 0xFF#8, 0x06#8, 0x05#8, 0x00#8, 0x00#8, 0x77#8])
           frameReady := true }]) := by decide

/-- F18: FRESET discards a partial frame, with no frame and no event. -/
theorem test_freset_F18 :
    (match exec .freset (withFramer ⟨.dataPhase, 7, .short, 13, false, [0x06#8, 0x80#8, 0x00#8, 0x0E#8, 0x00#8]⟩) with
      | .next t => some (shown t.framer, t.observed)
      | _ => none) =
      some (⟨.seekPreamble, 0, 0, false, []⟩, [{ answer := .result .nothing, frameReady := false }]) := by
  decide

/-! ### FrameCodec vectors -/

/-- D2, D4, D12: a wrong checksum, a counter below 2, nothing at all. -/
theorem test_deser_D2_D4_D12 :
    answerOf (.deser (some (v1.dropLast ++ [0x59#8]))) = some (.error .integrity) ∧
    answerOf (.deser (some [0xFF#8, 0xFF#8, 0x06#8, 0x05#8, 0x00#8, 0x00#8, 0x03#8])) =
      some (.error (.malformedFrame .count)) ∧
    answerOf (.deser (some [])) = some (.error (.malformedFrame .truncated)) := by decide

/-- D15, D16, D19, D21: the order of the checks. -/
theorem test_deser_D15_D16_D19_D21 :
    answerOf (.deser (some [0xFF#8, 0xFF#8, 0x07#8, 0x07#8])) = some (.error (.malformedFrame .limiter)) ∧
    answerOf (.deser (some [0xFF#8, 0xFF#8, 0x03#8, 0x05#8, 0x00#8, 0x02#8, 0x00#8, 0x00#8])) =
      some (.error .integrity) ∧
    answerOf (.deser (some [0xFF#8, 0xFF#8, 0x06#8, 0x05#8, 0xFE#8, 0xFD#8])) =
      some (.error (.malformedFrame .truncated)) ∧
    answerOf (.deser (some [0xFF#8, 0xFF#8, 0x06#8, 0x05#8, 0xFE#8, 0x03#8])) = some (.error .integrity) := by
  decide

/-- The address of the SER vectors. -/
def la : Bytes := [0xA6#8, 0x4E#8, 0x01#8, 0x02#8, 0x03#8]

/-- S3 and V2: a long request with a payload, and the source's worked request. -/
theorem test_ser_S3_V2 :
    answerOf (.ser ⟨5, .long, .onDemand, la, 1, [0x10#8, 0x20#8]⟩) = some (.result (.bytes
      [0xFF#8, 0xFF#8, 0xFF#8, 0xFF#8, 0xFF#8, 0x86#8, 0xA6#8, 0x4E#8, 0x01#8, 0x02#8, 0x03#8, 0x01#8, 0x02#8,
       0x10#8, 0x20#8, 0x5D#8])) ∧
    answerOf (.ser ⟨3, .short, .acknowledge, [], 0, []⟩) = some (.result (.bytes
      [0xFF#8, 0xFF#8, 0xFF#8, 0x02#8, 0x00#8, 0x00#8, 0x02#8])) := by decide

/-- S4: without the payload (the parameter's other value). -/
theorem test_ser_S4 :
    serialize false ⟨5, .long, .onDemand, la, 1, [0x10#8, 0x20#8]⟩ = .ok
      [0xFF#8, 0xFF#8, 0xFF#8, 0xFF#8, 0xFF#8, 0x86#8, 0xA6#8, 0x4E#8, 0x01#8, 0x02#8, 0x03#8, 0x01#8, 0x00#8,
       0x6F#8] := rfl

/-- S11: a payload of 256 bytes. -/
theorem test_ser_S11 :
    serialize true ⟨2, .short, .onDemand, [0x80#8], 0, List.replicate 256 0x00#8⟩ =
      .error (.range .payloadTooLong) := by
  have h : 255 < (List.replicate 256 0x00#8 : Bytes).length := by rw [List.length_replicate]; decide
  simp only [serialize, requestPayload]
  exact if_pos h

/-- S7 and S9: command 254 takes two bytes, the second an open parameter's; command 253 takes one. -/
theorem test_ser_S7_S9 :
    serialize true ⟨0, .short, .onDemand, [0x80#8], 254, []⟩ = .ok
      [0x06#8, 0x80#8, 0xFE#8, Config.extCmdByte 254, 0x00#8,
       xorFold [0x06#8, 0x80#8, 0xFE#8, Config.extCmdByte 254, 0x00#8]] ∧
    answerOf (.ser ⟨0, .short, .onDemand, [0x80#8], 253, []⟩) = some (.result (.bytes
      [0x06#8, 0x80#8, 0xFD#8, 0x00#8, 0x7B#8])) := ⟨rfl, by decide⟩

/-- E1 to E4: the text is the table's, or the generic one. -/
theorem test_errtxt_E2 (h : Config.errorTable 0x01#8 = .unmapped) :
    answerOf (.errtxt 0x01#8) = some (.result (.text Config.unknownErrorText)) := by
  simp [answerOf, exec, execErrtxt, errorText, h, State.answer, State.observe, withFramer]

/-! ### PrimitiveCodec vectors -/

/-- P1, P2. -/
theorem test_encText :
    answerOf (.encText (some [])) = some (.result (.bytes [])) ∧
    answerOf (.encText (some [0x48, 0x41, 0x52, 0x54])) =
      some (.result (.bytes [0x48#8, 0x41#8, 0x52#8, 0x54#8])) := by decide

/-- P6, P12: −2.5, and a NaN with its payload. -/
theorem test_encF32 :
    answerOf (.encF32 (some 0xC0200000#32)) = some (.result (.bytes [0x00#8, 0x00#8, 0x20#8, 0xC0#8])) ∧
    answerOf (.encF32 (some 0x7FC00001#32)) = some (.result (.bytes [0x01#8, 0x00#8, 0xC0#8, 0x7F#8])) := by
  decide

/-- P16, P17: −2.5 and the largest finite value. -/
theorem test_encF64 :
    answerOf (.encF64 (some 0xC004000000000000#64)) = some (.result (.bytes
      [0x00#8, 0x00#8, 0x00#8, 0x00#8, 0x00#8, 0x00#8, 0x04#8, 0xC0#8])) ∧
    answerOf (.encF64 (some 0x7FEFFFFFFFFFFFFF#64)) = some (.result (.bytes
      [0xFF#8, 0xFF#8, 0xFF#8, 0xFF#8, 0xFF#8, 0xFF#8, 0xEF#8, 0x7F#8])) := by decide

/-- P27. -/
theorem test_encU16 :
    answerOf (.encU16 (some 0x1234#16)) = some (.result (.bytes [0x34#8, 0x12#8])) := by decide

/-- P21 to P23: the clamp. -/
theorem test_encU32 :
    answerOf (.encU32 (some 0x123456#32)) = some (.result (.bytes [0x56#8, 0x34#8, 0x12#8])) ∧
    answerOf (.encU32 (some 16777215#32)) = some (.result (.bytes [0xFF#8, 0xFF#8, 0xFF#8])) ∧
    answerOf (.encU32 (some 16777216#32)) = some (.error (.range .outOfRange)) := by decide

/-- P30, P31: the year wraps on both sides. -/
theorem test_encDate :
    answerOf (.encDate (some ⟨25, 12, 2023⟩)) = some (.result (.bytes [0x19#8, 0x0C#8, 0x7B#8])) ∧
    answerOf (.encDate (some ⟨1, 1, 2156⟩)) = some (.result (.bytes [0x01#8, 0x01#8, 0x00#8])) ∧
    answerOf (.encDate (some ⟨31, 12, 1899⟩)) = some (.result (.bytes [0x1F#8, 0x0C#8, 0xFF#8])) := by
  decide

/-- P33, P34, P36. -/
theorem test_encFlags :
    answerOf (.encFlags (some [])) = some (.result (.bytes [0x00#8])) ∧
    answerOf (.encFlags (some [true, false, true])) = some (.result (.bytes [0x05#8])) ∧
    answerOf (.encFlags (some (List.replicate 9 false))) = some (.error (.range .tooManyFlags)) := by
  decide

/-- P39, P41: a present value of an unsupported type, and the absent one. -/
theorem test_encUnsup :
    answerOf (.encUnsup 15#4 (some .foreign)) = some (.error (.unsupportedType 15#4)) ∧
    answerOf (.encUnsup 15#4 none) = some (.result (.bytes [])) := by decide

/-- P3, P4: no terminator. -/
theorem test_decText :
    answerOf (.decText (some [])) = some (.result (.value (.text []))) ∧
    answerOf (.decText (some [0x48#8, 0x00#8, 0x41#8])) =
      some (.result (.value (.text [0x48, 0x00, 0x41]))) := by decide

/-- P13, P14. -/
theorem test_decF32 :
    answerOf (.decF32 (some [0x00#8, 0x00#8, 0xC0#8, 0x7F#8])) =
      some (.result (.value (.f32 0x7FC00000#32))) ∧
    answerOf (.decF32 (some [0x00#8, 0x00#8, 0x80#8])) = some (.error (.range .wrongLength)) := by decide

/-- P18, P19. -/
theorem test_decF64 :
    answerOf (.decF64 (some [0x00#8, 0x00#8, 0x00#8, 0x00#8, 0x00#8, 0x00#8, 0xF0#8, 0xFF#8])) =
      some (.result (.value (.f64 0xFFF0000000000000#64))) ∧
    answerOf (.decF64 (some [0x00#8, 0x00#8, 0x80#8, 0x3F#8])) = some (.error (.range .wrongLength)) := by
  decide

/-- R187's example, P29. -/
theorem test_decU16 :
    answerOf (.decU16 (some [0x34#8, 0x12#8])) = some (.result (.value (.u16 4660#16))) ∧
    answerOf (.decU16 (some [0x34#8])) = some (.error (.range .wrongLength)) := by decide

/-- P25, P26. -/
theorem test_decU32 :
    answerOf (.decU32 (some [0xFF#8, 0xFF#8, 0xFF#8])) = some (.result (.value (.u32 16777215#32))) ∧
    answerOf (.decU32 (some [0x56#8, 0x34#8, 0x12#8, 0x00#8])) = some (.error (.range .wrongLength)) := by
  decide

/-- P32: leap days and the last year. -/
theorem test_decDate_P32 :
    answerOf (.decDate (some [0x1D#8, 0x02#8, 0x64#8])) = some (.result (.value (.date ⟨29, 2, 2000⟩))) ∧
    answerOf (.decDate (some [0x1F#8, 0x0C#8, 0xFF#8])) = some (.result (.value (.date ⟨31, 12, 2155⟩))) := by
  decide

/-- P32a, P43: 29 February 1900, 31 April, month 13; and the length before the validity. -/
theorem test_decDate_P32a_P43 :
    answerOf (.decDate (some [0x1D#8, 0x02#8, 0x00#8])) = some (.error (.range .invalidDate)) ∧
    answerOf (.decDate (some [0x1F#8, 0x04#8, 0x7B#8])) = some (.error (.range .invalidDate)) ∧
    answerOf (.decDate (some [0x01#8, 0x0D#8, 0x7B#8])) = some (.error (.range .invalidDate)) ∧
    answerOf (.decDate (some [0x00#8, 0x0D#8])) = some (.error (.range .wrongLength)) := by decide

/-- P37, P38. -/
theorem test_decFlags :
    answerOf (.decFlags (some [0x05#8])) =
      some (.result (.value (.flags [true, false, true, false, false, false, false, false]))) ∧
    answerOf (.decFlags (some [])) = some (.error (.range .wrongLength)) := by decide

/-- P42, P45: MissingInput before the tag, the tag before the length. -/
theorem test_decUnsup :
    answerOf (.decUnsup 9#4 none) = some (.error .missingInput) ∧
    answerOf (.decUnsup 9#4 (some [])) = some (.error (.unsupportedType 9#4)) := by decide

/-! ### Decoding: words written out from R80 to R82 (unit in bits 7..4, operation or tag in bits 3..0) -/

theorem test_decode_framer :
    decode ⟨0b00000000#8, .byte 0xFF#8⟩ = .ok (.fpush 0xFF#8) ∧
    decode ⟨0b00000001#8, .nothing⟩ = .ok .freset := by decide
theorem test_decode_frameCodec :
    decode ⟨0b00010000#8, .bytes []⟩ = .ok (.deser (some [])) ∧
    decode ⟨0b00010001#8, .request ⟨2, .long, .batch, la, 3, []⟩⟩ =
      .ok (.ser ⟨2, .long, .batch, la, 3, []⟩) ∧
    decode ⟨0b00010010#8, .byte 0x05#8⟩ = .ok (.errtxt 0x05#8) := by decide
theorem test_decode_encode_units :
    decode ⟨0b00100000#8, .value (.text [65])⟩ = .ok (.encText (some [65])) ∧
    decode ⟨0b00100001#8, .value (.f32 1#32)⟩ = .ok (.encF32 (some 1#32)) ∧
    decode ⟨0b00100010#8, .value (.f64 1#64)⟩ = .ok (.encF64 (some 1#64)) ∧
    decode ⟨0b00100011#8, .absent⟩ = .ok (.encU16 none) ∧
    decode ⟨0b00100100#8, .value (.u32 1#32)⟩ = .ok (.encU32 (some 1#32)) ∧
    decode ⟨0b00100101#8, .value (.date ⟨29, 2, 2024⟩)⟩ = .ok (.encDate (some ⟨29, 2, 2024⟩)) ∧
    decode ⟨0b00100110#8, .value (.flags [true])⟩ = .ok (.encFlags (some [true])) ∧
    decode ⟨0b00100111#8, .value (.u16 1#16)⟩ = .ok (.encUnsup 7#4 (some (.u16 1#16))) := by decide
theorem test_decode_decode_units :
    decode ⟨0b00110000#8, .bytes [0x41#8]⟩ = .ok (.decText (some [0x41#8])) ∧
    decode ⟨0b00110001#8, .absent⟩ = .ok (.decF32 none) ∧
    decode ⟨0b00110010#8, .bytes []⟩ = .ok (.decF64 (some [])) ∧
    decode ⟨0b00110011#8, .bytes []⟩ = .ok (.decU16 (some [])) ∧
    decode ⟨0b00110100#8, .bytes []⟩ = .ok (.decU32 (some [])) ∧
    decode ⟨0b00110101#8, .bytes []⟩ = .ok (.decDate (some [])) ∧
    decode ⟨0b00110110#8, .bytes []⟩ = .ok (.decFlags (some [])) ∧
    decode ⟨0b00111111#8, .bytes []⟩ = .ok (.decUnsup 15#4 (some [])) := by decide
/-- R84 (a) and R83: a reserved word, and an operand of another word's format. -/
theorem test_decode_rejects :
    decode ⟨0x13#8, .nothing⟩ = .error .reservedWord ∧
    decode ⟨0x10#8, .byte 0x00#8⟩ = .error .operandKind := by decide
/-- R83's format column: DESER takes `absent`; and ENC.DATE takes any triple. -/
theorem test_decode_unstated_results :
    decode ⟨0x10#8, .absent⟩ = .ok (.deser none) ∧
    decode ⟨0x25#8, .value (.date ⟨30, 2, 2024⟩)⟩ = .ok (.encDate (some ⟨30, 2, 2024⟩)) := by decide
/-- A word of the opcode table, run as the first operation after reset. -/
theorem test_tableWord :
    decodeTableWord 8 0x2A = some (.encUnsup 10#4 none) ∧ decodeTableWord 8 0x02 = none ∧
    (match step (State.reset.withFetchWord 8 0x00) with
      | .next t => some (shown t.framer, t.observed)
      | _ => none) = some (⟨.seekPreamble, 0, 0, false, []⟩, [noFrame]) := by decide
/-- R86: FEED is FPUSHN with hexadecimal bytes. -/
theorem test_feed :
    assembleLine (.feed ['F', 'F', ' ', '0', '6']) = some (fpushn [0xFF#8, 0x06#8]) := by decide

/-! ### Well-formedness: an ill-formed term for each check -/

theorem test_wf_refuses_encUnsup : (Instr.encUnsup 6#4 none).wf = false := by decide
theorem test_wf_refuses_decUnsup : (Instr.decUnsup 0#4 none).wf = false := by decide

/-! ### Witnesses -/

/-- One framer state of each phase has the invariant; `data 1` and `data 255` are DataPhase's ends. -/
theorem witness_inv_seek : seek.Inv := by simp [Framer.Inv, seek]
theorem witness_inv_count : (count 1).Inv := by simp [Framer.Inv, count]
theorem witness_inv_address1 : address1.Inv :=
  ⟨by decide, rfl, by decide, 0x06#8, [], ⟨by decide, by decide⟩, rfl, rfl⟩
theorem witness_inv_address5 : address5.Inv :=
  ⟨by decide, rfl, by decide, 0x86#8, [], ⟨by decide, by decide⟩, rfl, rfl⟩
theorem witness_inv_command : command.Inv :=
  ⟨by decide, rfl, 0x06#8, [0x05#8], ⟨by decide, by decide⟩, rfl, rfl⟩
theorem witness_inv_extension : extension.Inv :=
  ⟨by decide, rfl, 0x06#8, [0x05#8], ⟨by decide, by decide⟩, rfl, rfl⟩
theorem commandWire0 : CommandWire [0x00#8] := .inl ⟨0x00#8, by decide, rfl⟩
theorem witness_inv_counter : counter.Inv :=
  ⟨by decide, rfl, rfl, 0x06#8, [0x05#8], [0x00#8], ⟨by decide, by decide⟩, rfl, commandWire0, rfl⟩
theorem witness_inv_data1 : (data 1#8).Inv :=
  ⟨by decide, rfl, by decide, 0x06#8, [0x05#8], [0x00#8], 1#8, [], ⟨by decide, by decide⟩, rfl,
    commandWire0, rfl, rfl⟩
theorem witness_inv_data255 : (data 255#8).Inv :=
  ⟨by decide, rfl, by decide, 0x06#8, [0x05#8], [0x00#8], 255#8, [], ⟨by decide, by decide⟩, rfl,
    commandWire0, rfl, rfl⟩
theorem witness_inv_checksum : checksum.Inv :=
  ⟨by decide, rfl, rfl, 0x06#8, [0x05#8], [0x00#8], 0#8, [], ⟨by decide, by decide⟩, rfl, commandWire0,
    rfl, rfl⟩

/-- C0 of the vectors is a frame the framer recovers. -/
def c0 : Bytes := [0xFF#8, 0xFF#8, 0x06#8, 0x05#8, 0x00#8, 0x00#8, 0x03#8]
theorem witness_framable : Framable c0 :=
  ⟨2, 0x06#8, [0x05#8], [0x00#8], 0#8, [], 0x03#8, by decide, by decide, rfl, commandWire0, rfl, rfl⟩

theorem witness_DecodeEncodeAgree :
    (Instr.encDate (some ⟨29, 2, 2024⟩)).wf = true ∧ (Instr.encUnsup 7#4 none).wf = true ∧
      (Instr.decUnsup 15#4 (some [])).wf = true := by decide
theorem witness_DecodedIssueIsItsEncoding :
    decode ⟨0x27#8, .absent⟩ = .ok (.encUnsup 7#4 none) := by decide

/-- A state with one issue. -/
def issuing (x : Issue) : State := { framer := seek, issued := [x], observed := [] }
def refusesWord (w : Byte) : Bool :=
  match step (issuing ⟨w, .absent⟩) with
  | .refused (.reservedWord v) => v == w
  | _ => false
/-- The words where the ranges of R84 (a) begin and end, and their neighbours. -/
theorem witness_ReservedWordsRefused :
    [0x02#8, 0x0F#8, 0x13#8, 0x1F#8, 0x40#8, 0xFF#8].map refusesWord = List.replicate 6 true ∧
      [0x01#8, 0x10#8, 0x12#8, 0x20#8, 0x3F#8].map refusesWord = List.replicate 5 false := by decide
theorem witness_StepExecutesTheNextIssue :
    (issuing ⟨0x01#8, .nothing⟩).issued = ⟨0x01#8, .nothing⟩ :: [] ∧
      decode ⟨0x01#8, .nothing⟩ = .ok .freset ∧
      (issuing ⟨0x10#8, .nothing⟩).issued = ⟨0x10#8, .nothing⟩ :: [] ∧
      decode ⟨0x10#8, .nothing⟩ = .error .operandKind ∧ State.reset.issued = [] := by decide
theorem witness_StepTakesIssuesInOrder :
    ∃ t, step (issuing ⟨0x34#8, .bytes [0x56#8, 0x34#8, 0x12#8]⟩) = .next t := ⟨_, rfl⟩
theorem witness_SeekPreambleDiscardsUntilPreamble :
    (withFramer seek).framer.phase = .seekPreamble ∧ (withFramer seek).issued = [] ∧
      0xFF#8 ∉ [0x12#8, 0x34#8] := by decide
theorem witness_CountPreambleCountsEveryFF : (withFramer (count 1)).framer.phase = .countPreamble := rfl
/-- One case for each clause: two preamble bytes and a limiter of each format; one preamble byte; a byte that is no limiter. -/
theorem witness_LimiterCandidateTested :
    (withFramer (count 2)).framer.phase = .countPreamble ∧ 2 ≤ (withFramer (count 2)).framer.pre ∧
      (0x06#8 : Byte) ≠ 0xFF#8 ∧ (0x86#8 : Byte) ≠ 0xFF#8 ∧
      (withFramer (count 1)).framer.phase = .countPreamble ∧ (withFramer (count 1)).framer.pre < 2 ∧
      (0x82#8 : Byte) ≠ 0x01#8 ∧ (0x82#8 : Byte) ≠ 0x06#8 ∧ (0x82#8 : Byte) ≠ 0x81#8 ∧
      (0x82#8 : Byte) ≠ 0x86#8 := by decide
theorem witness_AddressByteTaken :
    (address1.phase = .addressPhase ∧ address1.Inv ∧ address1.rem = 1) ∧
      (address5.phase = .addressPhase ∧ address5.Inv ∧ 2 ≤ address5.rem) :=
  ⟨⟨rfl, witness_inv_address1, rfl⟩, rfl, witness_inv_address5, by decide⟩
theorem witness_CommandByteTaken :
    (command.phase = .commandPhase ∧ command.ext = false) ∧
      (extension.phase = .commandPhase ∧ extension.ext = true) := by decide
theorem witness_CounterByteTaken : counter.phase = .counterPhase := rfl
theorem witness_DataByteTaken :
    ((data 1#8).phase = .dataPhase ∧ (data 1#8).Inv ∧ (data 1#8).rem = 1) ∧
      ((data 255#8).phase = .dataPhase ∧ (data 255#8).Inv ∧ 2 ≤ (data 255#8).rem) :=
  ⟨⟨rfl, witness_inv_data1, rfl⟩, rfl, witness_inv_data255, by decide⟩
theorem witness_ChecksumByteEmitsTheFrame : checksum.phase = .checksumPhase := rfl
theorem witness_FresetRestoresS0 : (withFramer seek).framer.AtReset := ⟨rfl, rfl, rfl, rfl, rfl⟩
theorem witness_FpushNeverRaises :
    ∃ t, exec (.deser (some [])) (withFramer seek) = .next t ∧
      t.observed = [] ++ [{ answer := .error (.malformedFrame .truncated), frameReady := false }] :=
  ⟨_, rfl, rfl⟩
theorem witness_NoResyncInsideAFrame :
    address1.Inv ∧ address1.phase ≠ .seekPreamble ∧ address1.phase ≠ .countPreamble ∧
      address1.phase ≠ .checksumPhase :=
  ⟨witness_inv_address1, by decide⟩
theorem witness_StepKeepsFramerInvariant :
    ∃ s t : State, s.framer.Inv ∧ s.framer.phase = .dataPhase ∧ step s = .next t :=
  ⟨{ framer := data 1#8, issued := [⟨0x00#8, .byte 0xFF#8⟩], observed := [] }, _, witness_inv_data1, rfl, rfl⟩
theorem witness_InvariantBoundsTheFrame :
    address1.Inv ∧ extension.Inv ∧ counter.Inv ∧ (data 255#8).Inv ∧ checksum.Inv :=
  ⟨witness_inv_address1, witness_inv_extension, witness_inv_counter, witness_inv_data255,
    witness_inv_checksum⟩

/-- The state after the checksum byte of C0. -/
def emitted : State :=
  { framer := Framer.reset, issued := [],
    observed := [] ++ [{ answer := .result (.frame c0), frameReady := true }] }
theorem witness_EmittedFramesAreFramable :
    (withFramer checksum).framer.Inv ∧ exec (.fpush 0x03#8) (withFramer checksum) = .next emitted ∧
      emitted.observed = (withFramer checksum).observed ++
        [{ answer := .result (.frame c0), frameReady := true }] :=
  ⟨witness_inv_checksum, rfl, rfl⟩
theorem witness_FrameReadyExactlyAtTheChecksum :
    exec (.fpush 0x03#8) (withFramer checksum) = .next emitted ∧
      emitted.observed = (withFramer checksum).observed ++
        [{ answer := .result (.frame c0), frameReady := true }] := ⟨rfl, rfl⟩
theorem witness_ChunkingDoesNotMatter : (withFramer seek).issued = [] := rfl
theorem witness_BackToBackFramesRecovered :
    seek.AtReset ∧ (withFramer seek).issued = [] ∧ (∀ raw ∈ [c0, c0], Framable raw) ∧
      [c0 ++ c0.take 3, c0.drop 3].flatten = [c0, c0].flatten := by
  refine ⟨⟨rfl, rfl, rfl, rfl, rfl⟩, rfl, ?_, by decide⟩
  simp [witness_framable]
/-- F22's noise. -/
theorem witness_ResyncOverNoise :
    seek.AtReset ∧ (withFramer seek).issued = [] ∧
      (∀ (before after : Bytes) (lim : Byte), framerLimiter lim = true →
        [0x12#8, 0x34#8, 0xFF#8, 0x06#8, 0x00#8] ≠ before ++ [0xFF#8, 0xFF#8, lim] ++ after) ∧
      ([0x12#8, 0x34#8, 0xFF#8, 0x06#8, 0x00#8] : Bytes).getLast? ≠ some 0xFF#8 ∧ Framable c0 := by
  refine ⟨⟨rfl, rfl, rfl, rfl, rfl⟩, rfl, ?_, by decide, witness_framable⟩
  intro before after lim _ h
  have hc := congrArg (List.count 0xFF#8) h
  have h1 : List.count 0xFF#8 [0x12#8, 0x34#8, 0xFF#8, 0x06#8, 0x00#8] = 1 := by decide
  rw [h1] at hc
  simp only [List.count_append, List.count_cons_self] at hc
  omega
theorem witness_UnrecordedFormatNotObservable :
    (count 1).SameShown { count 1 with fmt := .long } ∧ (withFramer (count 1)).observed = [] ∧
      ∃ t, exec (.fpush 0xFF#8) (withFramer (count 1)) = .next t := by
  refine ⟨⟨rfl, fun _ h => absurd rfl h⟩, rfl, _, rfl⟩
theorem witness_IsCodec : IsCodec (.deser (some [])) := ⟨by simp, by simp⟩
theorem witness_OnlyFramerOperationsWriteTheFramer : IsCodec (.encU32 none) := ⟨by simp, by simp⟩
theorem witness_LimiterTable : knownLimiter 0x82#8 = true := by decide
/-- The characters where the clauses meet, 0x7F and 0x80. -/
theorem witness_EncodeTextByteForCharacter :
    ([0x7F, 0x80] : Text)[0]? = some 0x7F ∧ 0x7F < 0x80 ∧ ([0x7F, 0x80] : Text)[1]? = some 0x80 := by
  decide
theorem witness_DecodeTextCharacterForByte :
    ([0x7F#8, 0x80#8] : Bytes)[0]? = some 0x7F#8 ∧ (0x7F#8 : Byte).toNat < 0x80 ∧
      ([0x7F#8, 0x80#8] : Bytes)[1]? = some 0x80#8 ∧ 0x80 ≤ (0x80#8 : Byte).toNat := by decide
theorem witness_ErrorsOnlyAsTheTableSays :
    ∃ t, exec (.decU16 none) (withFramer seek) = .next t ∧
      t.observed = [] ++ [{ answer := .error .missingInput, frameReady := false }] := ⟨_, rfl, rfl⟩
theorem witness_CodecAnswersIndependentOfState :
    Replies (.decU16 none) (withFramer seek) (.error .missingInput) ∧
      Replies (.decU16 none) (withFramer checksum) (.error .missingInput) := ⟨rfl, rfl⟩
/-- D6: the shortest response. -/
theorem witness_DeserReadsAResponse :
    ([0x05#8] : Bytes).length = (if (0x01#8 : Byte).getLsbD 7 then 5 else 1) ∧ (0x00#8 : Byte) ≠ 0xFE#8 ∧
      (0x02#8 : Byte).toNat = 2 + ([] : Bytes).length := by decide
/-- D5: a response with an extended command. -/
theorem witness_DeserAcceptsOnlyResponses :
    ∃ r, Replies (.deser (some [0xFF#8, 0xFF#8, 0x06#8, 0x05#8, 0xFE#8, 0xFE#8, 0x02#8, 0x00#8, 0x00#8, 0x01#8]))
      (withFramer seek) (.result (.response r)) := ⟨_, rfl⟩
theorem witness_DeserChecksumFirst :
    ([0x06#8] : Bytes) ≠ [] ∧ ([0x06#8] : Bytes).head? ≠ some 0xFF#8 ∧
      (∃ r, Replies (.deser (some ([0x06#8, 0x05#8, 0x00#8, 0x02#8, 0x00#8, 0x00#8] ++ [0x01#8])))
        (withFramer seek) (.result (.response r))) ∧ (0x03#8 : Byte) ≠ 0x01#8 :=
  ⟨by decide, by decide, ⟨_, rfl⟩, by decide⟩
/-- One case for each clause: a limiter alone; a bad limiter; an address cut short, FE at the end, a command at the end; and a
counter that is too small or does not match. -/
theorem witness_DeserFieldErrors :
    (([0x06#8] : Bytes).length < 2 ∧ ([0x06#8] : Bytes).head? ≠ some 0xFF#8) ∧
    ((0x07#8 : Byte) ≠ 0xFF#8 ∧ knownLimiter 0x07#8 = false) ∧
    (knownLimiter 0x86#8 = true ∧ ([0x01#8, 0x02#8] : Bytes).length ≤ addressLength (limiterFormat 0x86#8)) ∧
    (([0x05#8] : Bytes).length = addressLength (limiterFormat 0x06#8)) ∧ CommandWire [0x00#8] ∧
    ((0x05#8 : Byte).toNat ≠ ([0x00#8, 0x00#8] : Bytes).length ∧ (0x01#8 : Byte).toNat < 2) :=
  ⟨by decide, by decide, by decide, rfl, commandWire0, by decide⟩
/-- ChecksumPhase with the shortest response, D6. -/
def response : Framer :=
  ⟨.checksumPhase, 2, .short, 0, false, [0x06#8, 0x05#8, 0x00#8, 0x02#8, 0x00#8, 0x00#8]⟩
theorem witness_inv_response : response.Inv :=
  ⟨by decide, rfl, rfl, 0x06#8, [0x05#8], [0x00#8], 2#8, [0x00#8, 0x00#8], ⟨by decide, by decide⟩, rfl,
    commandWire0, rfl, rfl⟩
/-- One case for each clause: the counters 0 and 2 with a good checksum, and a bad checksum. -/
theorem witness_DeserOfEmittedFrames :
    ((withFramer checksum).framer.Inv ∧ exec (.fpush 0x03#8) (withFramer checksum) = .next emitted ∧
      xorAll checksum.body = 0x03#8) ∧
    (response.Inv ∧ (∃ t, exec (.fpush 0x01#8) (withFramer response) = .next t) ∧
      xorAll response.body = 0x01#8) ∧
    xorAll checksum.body ≠ 0x77#8 :=
  ⟨⟨witness_inv_checksum, rfl, by decide⟩, ⟨witness_inv_response, ⟨_, rfl⟩, by decide⟩, by decide⟩
/-- A request for either clause: S10 and S11's payload lengths. -/
theorem witness_SerWritesTheRequestFrame :
    (List.replicate 255 0x00#8 : Bytes).length ≤ 255 ∧ 255 < (List.replicate 256 0x00#8 : Bytes).length := by
  rw [List.length_replicate, List.length_replicate]
  decide
/-- S5's request meets every hypothesis, of both clauses. -/
theorem witness_SerializedRequestIsFramed :
    (∃ xs, Replies (.ser ⟨2, .short, .onDemand, [0x80#8], 3, []⟩) (withFramer seek) (.result (.bytes xs))) ∧
      ([0x80#8] : Bytes).length = addressLength .short ∧ seek.AtReset ∧ (withFramer seek).issued = [] :=
  ⟨⟨_, rfl⟩, rfl, ⟨rfl, rfl, rfl, rfl, rfl⟩, rfl⟩
theorem witness_EncodeAbsentIsEmpty :
    Instr.encUnsup 7#4 none ∈ [Instr.encText none, .encF32 none, .encF64 none, .encU16 none, .encU32 none,
      .encDate none, .encFlags none, .encUnsup 7#4 none] := by simp
theorem witness_EncodeU32Clamped : (16777215#32).toNat ≤ 16777215 ∧ 16777215 < (16777216#32).toNat := by
  decide
theorem witness_EncodeDateTruncates :
    validDate ⟨29, 2, 2024⟩ = true ∧ validDate ⟨30, 2, 2024⟩ = false := by decide
theorem witness_EncodeFlagBits :
    (List.replicate 8 true : FlagSet).length ≤ 8 ∧ 8 < (List.replicate 9 true : FlagSet).length := by decide
theorem witness_DecodeAbsentMissesInput :
    Instr.decUnsup 7#4 none ∈ [Instr.decText none, .decF32 none, .decF64 none, .decU16 none, .decU32 none,
      .decDate none, .decFlags none, .decUnsup 7#4 none] := by simp
theorem witness_DecodeWrongLengthRaises :
    ([] : Bytes).length ≠ 4 ∧ ([] : Bytes).length ≠ 8 ∧ ([] : Bytes).length ≠ 2 ∧
      ([] : Bytes).length ≠ 3 ∧ ([] : Bytes).length ≠ 1 := by decide
/-- 29 February 2000 is a date, 29 February 1900 is none. -/
theorem witness_DecodeDateChecked :
    (1 ≤ (2#8).toNat ∧ (2#8).toNat ≤ 12 ∧ 1 ≤ (29#8).toNat ∧ (29#8).toNat ≤ 29) ∧
      ¬(1 ≤ (2#8).toNat ∧ (2#8).toNat ≤ 12 ∧ 1 ≤ (29#8).toNat ∧ (29#8).toNat ≤ 28) := by decide
theorem witness_BytesOfANumberRoundTrip : 16777215 < 256 ^ 3 := by decide
theorem witness_PrimitivesRoundTrip :
    Replies (.encU32 (some 16777215#32)) (withFramer seek) (.result (.bytes [0xFF#8, 0xFF#8, 0xFF#8])) ∧
      (validDate ⟨31, 12, 2155⟩ = true ∧
        Replies (.encDate (some ⟨31, 12, 2155⟩)) (withFramer seek) (.result (.bytes [0x1F#8, 0x0C#8, 0xFF#8]))) ∧
      (Replies (.encFlags (some (List.replicate 8 true))) (withFramer seek) (.result (.bytes [0xFF#8]))) ∧
      (Replies (.encText (some [0x7F])) (withFramer seek) (.result (.bytes [0x7F#8]))) :=
  ⟨rfl, ⟨by decide, rfl⟩, rfl, rfl⟩
/-- The table either maps a code or does not: one of ErrtxtNeverFails's clauses applies to every code. -/
theorem witness_ErrtxtNeverFails (c : Byte) :
    (∃ text, Config.errorTable c = .mapped text) ∨ Config.errorTable c = .unmapped := by
  cases h : Config.errorTable c with
  | mapped text => exact .inl ⟨text, rfl⟩
  | unmapped => exact .inr rfl

end Sys2Proof.Tests
end

/-!
The proofs of the statements about the framer's state (10_state.md): the invariant of R27 over every step and what it bounds, the
unrecorded format of R23, and which operations write the framer (R29).
-/

namespace Sys2Proof.Machine

/-! ### What an operation and a step can do -/

/-- An operation is FPUSH, FRESET or one of a unit without state (R20). -/
theorem fpush_or_freset_or_isCodec (i : Instr) : (∃ b, i = .fpush b) ∨ i = .freset ∨ IsCodec i := by
  cases i with
  | fpush b => exact .inl ⟨b, rfl⟩
  | freset => exact .inr (.inl rfl)
  | _ => exact .inr (.inr ⟨by simp, by simp⟩)

/-- A codec operation replies the same answer in every state (R57). -/
theorem replies_of_isCodec {i : Instr} (h : IsCodec i) : ∃ a, ∀ s, Replies i s a := by
  obtain ⟨hpush, hreset⟩ := h
  suffices hreply : ∃ a, ∀ s, exec i s = .next (s.reply a) by
    obtain ⟨a, ha⟩ := hreply
    exact ⟨a, fun s => by rw [Replies, ha, State.reply_eq_observe, State.observe]⟩
  cases i with
  | fpush b => exact absurd rfl (hpush b)
  | freset => exact absurd rfl hreset
  | errtxt c => exact ⟨.result (.text (errorText c)), fun _ => rfl⟩
  | _ => exact ⟨_, fun _ => rfl⟩

/-- FPUSH makes one transition of the framer and answers with its observation. -/
theorem exec_fpush (b : Byte) (s : State) :
    exec (.fpush b) s = .next
      { framer := (s.framer.push b).1
        issued := s.issued
        observed := s.observed ++ [pushObservation (s.framer.push b).2] } :=
  execFpush_eq b s

/-- FRESET does not look at the framer it resets. -/
theorem exec_freset (s : State) :
    exec .freset s = .next
      { framer := Framer.reset
        issued := s.issued
        observed := s.observed ++ [{ answer := .result .nothing, frameReady := false }] } :=
  execFreset_eq s

/-- What any operation does to the framer: FPUSH pushes its byte, FRESET resets, every other one keeps it (R29). -/
theorem framer_of_exec {i : Instr} {s t : State} (h : exec i s = .next t) :
    (∃ b, t.framer = (s.framer.push b).1) ∨ t.framer = Framer.reset ∨ t.framer = s.framer := by
  obtain ⟨b, rfl⟩ | rfl | hc := fpush_or_freset_or_isCodec i
  · cases (exec_fpush b s).symm.trans h
    exact .inl ⟨b, rfl⟩
  · cases (exec_freset s).symm.trans h
    exact .inr (.inl rfl)
  · obtain ⟨a, ha⟩ := replies_of_isCodec hc
    cases (ha s).symm.trans h
    exact .inr (.inr rfl)

/-- A step that goes on has executed the oldest issue, in the state without it. -/
theorem exec_of_step {s t : State} (h : step s = .next t) :
    ∃ x rest i, s.issued = x :: rest ∧ decode x = .ok i ∧
      exec i { s with issued := rest } = .next t := by
  cases hi : s.issued with
  | nil => simp [step, State.fetch_nil hi] at h
  | cons x rest =>
    simp only [step, State.fetch_cons hi] at h
    cases hd : decode x with
    | error e => simp [hd] at h
    | ok i => exact ⟨x, rest, i, rfl, hd, by simpa [hd] using h⟩

/-! ### The invariant of R27 -/

theorem Framer.reset_atReset : Framer.reset.AtReset := ⟨rfl, rfl, rfl, rfl, rfl⟩

/-- `S0` has the invariant, whatever its `fmt` (R28). -/
theorem Framer.AtReset.inv {f : Framer} (h : f.AtReset) : f.Inv := by
  obtain ⟨hphase, hpre, hrem, hext, hbody⟩ := h
  simp [Framer.Inv, hphase, hpre, hrem, hext, hbody]

section
variable {f : Framer} (b : Byte)

theorem Framer.pushSeek_inv (hp : f.phase = .seekPreamble) (h : f.Inv) : (f.pushSeek b).Inv := by
  unfold Framer.pushSeek
  split
  · simp only [Framer.Inv, hp] at h
    obtain ⟨-, hrem, hext, hbody⟩ := h
    exact ⟨le_rfl, hrem, hext, hbody⟩
  · exact h

/-- A limiter of the framer's set starts a frame with its whole address to come; any other byte but FF leads to `S0`. -/
theorem Framer.pushCount_inv (hp : f.phase = .countPreamble) (h : f.Inv) : (f.pushCount b).Inv := by
  simp only [Framer.Inv, hp] at h
  obtain ⟨hpre, hrem, hext, hbody⟩ := h
  unfold Framer.pushCount
  split
  · simp [Framer.Inv, hp, hrem, hext, hbody]
  · split
    · rename_i hlim
      have hlen : 1 ≤ addressLength (limiterFormat b) := by
        cases limiterFormat b <;> decide
      exact ⟨hlim.1, hext, hlen, b, [], ⟨hlim.2, rfl⟩, rfl, Nat.zero_add _⟩
    · exact Framer.reset_atReset.inv

theorem Framer.pushAddress_inv (hp : f.phase = .addressPhase) (h : f.Inv) :
    (f.pushAddress b).Inv := by
  simp only [Framer.Inv, hp] at h
  obtain ⟨hpre, hext, hrem, lim, addr, hlim, hbody, hlen⟩ := h
  have hsize : (addr ++ [b]).length = addr.length + 1 := by simp
  by_cases hlast : f.rem - 1 = 0
  · simp only [Framer.Inv, Framer.pushAddress, Framer.append, hlast, if_true]
    exact ⟨hpre, trivial, lim, addr ++ [b], hlim, by omega, by simp [hbody, hext]⟩
  · simp only [Framer.Inv, Framer.pushAddress, Framer.append, hlast, if_false, hp]
    exact ⟨hpre, hext, by omega, lim, addr ++ [b], hlim, by simp [hbody], by omega⟩

/-- The command field is complete after a first byte that is not FE, or after the byte that follows FE (R77). -/
theorem Framer.pushCommand_inv (hp : f.phase = .commandPhase) (h : f.Inv) :
    (f.pushCommand b).Inv := by
  simp only [Framer.Inv, hp] at h
  obtain ⟨hpre, hrem, lim, addr, hlim, hlen, hbody⟩ := h
  unfold Framer.pushCommand
  cases hext : f.ext with
  | true =>
    exact ⟨hpre, hrem, rfl, lim, addr, [0xFE#8, b], hlim, hlen, .inr ⟨b, rfl⟩,
      by simp [Framer.append, hbody, hext]⟩
  | false =>
    split
    · rename_i hb
      simp only [Framer.Inv, Framer.append, hp]
      exact ⟨hpre, hrem, lim, addr, hlim, hlen, by simp [hbody, hext, hb.2, extensionByte]⟩
    · rename_i hb
      have hne : b ≠ 0xFE#8 := fun hfe => hb ⟨rfl, hfe⟩
      exact ⟨hpre, hrem, rfl, lim, addr, [b], hlim, hlen, .inl ⟨b, hne, rfl⟩,
        by simp [Framer.append, hbody, hext]⟩

theorem Framer.pushCounter_inv (hp : f.phase = .counterPhase) (h : f.Inv) :
    (f.pushCounter b).Inv := by
  simp only [Framer.Inv, hp] at h
  obtain ⟨hpre, -, hext, lim, addr, cmd, hlim, hlen, hcmd, hbody⟩ := h
  have hbody' : f.body ++ [b] = lim :: (addr ++ (cmd ++ b :: [])) := by simp [hbody]
  by_cases hb : b = 0#8
  · simp only [Framer.Inv, Framer.pushCounter, Framer.append, hb, if_true]
    subst hb
    exact ⟨hpre, rfl, hext, lim, addr, cmd, 0#8, [], hlim, hlen, hcmd, hbody', rfl⟩
  · have hpos : 1 ≤ b.toNat := by
      have : b.toNat ≠ 0 := fun h0 => hb (BitVec.eq_of_toNat_eq h0)
      omega
    simp only [Framer.Inv, Framer.pushCounter, Framer.append, hb, if_false]
    exact ⟨hpre, hext, hpos, lim, addr, cmd, b, [], hlim, hlen, hcmd, hbody', Nat.zero_add _⟩

theorem Framer.pushData_inv (hp : f.phase = .dataPhase) (h : f.Inv) : (f.pushData b).Inv := by
  simp only [Framer.Inv, hp] at h
  obtain ⟨hpre, hext, hrem, lim, addr, cmd, n, data, hlim, hlen, hcmd, hbody, hcount⟩ := h
  have hbody' : f.body ++ [b] = lim :: (addr ++ (cmd ++ n :: (data ++ [b]))) := by simp [hbody]
  have hsize : (data ++ [b]).length = data.length + 1 := by simp
  by_cases hlast : f.rem - 1 = 0
  · simp only [Framer.Inv, Framer.pushData, Framer.append, hlast, if_true]
    exact ⟨hpre, trivial, hext, lim, addr, cmd, n, data ++ [b], hlim, hlen, hcmd, hbody',
      by omega⟩
  · simp only [Framer.Inv, Framer.pushData, Framer.append, hlast, if_false, hp]
    exact ⟨hpre, hext, by omega, lim, addr, cmd, n, data ++ [b], hlim, hlen, hcmd, hbody',
      by omega⟩

/-- Every transition keeps the invariant; in ChecksumPhase because it leads to `S0` (R108). -/
theorem Framer.push_inv (h : f.Inv) : (f.push b).1.Inv := by
  cases hp : f.phase with
  | seekPreamble => rw [push_seek hp]; exact pushSeek_inv b hp h
  | countPreamble => rw [push_count hp]; exact pushCount_inv b hp h
  | addressPhase => rw [push_address hp]; exact pushAddress_inv b hp h
  | commandPhase => rw [push_command hp]; exact pushCommand_inv b hp h
  | counterPhase => rw [push_counter hp]; exact pushCounter_inv b hp h
  | dataPhase => rw [push_data hp]; exact pushData_inv b hp h
  | checksumPhase => rw [push_checksum hp]; exact reset_atReset.inv

end

theorem exec_inv {i : Instr} {s t : State} (hs : s.framer.Inv) (h : exec i s = .next t) :
    t.framer.Inv := by
  obtain ⟨b, hf⟩ | hf | hf := framer_of_exec h <;> rw [hf]
  · exact Framer.push_inv b hs
  · exact Framer.reset_atReset.inv
  · exact hs

/-- Settles O21: a step is one operation, and each of the three things an operation can do to the framer keeps the invariant. -/
theorem stepKeepsFramerInvariant : Obligations.StepKeepsFramerInvariant := by
  intro s t hs h
  obtain ⟨x, rest, i, -, -, hexec⟩ := exec_of_step h
  exact exec_inv (s := { s with issued := rest }) hs hexec

/-- Settles O22: by the values of the reset state. -/
theorem resetStateIsS0 : Obligations.ResetStateIsS0 :=
  ⟨Framer.reset_atReset, Framer.reset_atReset.inv, rfl, rfl⟩

/-! ### The sizes the invariant gives (R27) -/

theorem addressLength_le_five (fmt : Format) : addressLength fmt ≤ 5 := by
  cases fmt <;> decide

/-- A command field is one byte, or two of which the first is FE (R77). -/
theorem CommandWire.length_eq {cmd : Bytes} (h : CommandWire cmd) :
    cmd.length = 1 ∨ cmd.length = 2 ∧ cmd[0]? = some 0xFE#8 := by
  obtain ⟨c0, -, rfl⟩ | ⟨c1, rfl⟩ := h
  · exact .inl rfl
  · exact .inr ⟨rfl, rfl⟩

/-- The four limiters of the framer's set (R75). -/
theorem framerLimiter_iff (lim : Byte) :
    framerLimiter lim = true ↔ lim = 0x01#8 ∨ lim = 0x06#8 ∨ lim = 0x81#8 ∨ lim = 0x86#8 := by
  simp [framerLimiter, or_assoc]

/-- The byte after the limiter and an address is the first of what follows. -/
theorem getElem?_after_address {lim : Byte} {addr rest : Bytes} {k : Nat} (h : addr.length = k) :
    (lim :: (addr ++ rest))[1 + k]? = rest[0]? := by
  subst h
  rw [Nat.add_comm, List.getElem?_cons_succ, List.getElem?_append_right le_rfl, Nat.sub_self]

section
variable {f : Framer}

/-- DataPhase and ChecksumPhase share one form: `rem` data bytes are missing, none in ChecksumPhase. -/
theorem Framer.Inv.counted (h : f.Inv) (hp : f.phase = .dataPhase ∨ f.phase = .checksumPhase) :
    ∃ lim addr cmd n data, addr.length = addressLength f.fmt ∧ CommandWire cmd ∧
      f.body = lim :: (addr ++ (cmd ++ n :: data)) ∧ data.length + f.rem = n.toNat := by
  obtain hp | hp := hp <;> simp only [Framer.Inv, hp] at h
  · obtain ⟨-, -, -, lim, addr, cmd, n, data, -, hlen, hcmd, hbody, hcount⟩ := h
    exact ⟨lim, addr, cmd, n, data, hlen, hcmd, hbody, hcount⟩
  · obtain ⟨-, hrem, -, lim, addr, cmd, n, data, -, hlen, hcmd, hbody, hcount⟩ := h
    exact ⟨lim, addr, cmd, n, data, hlen, hcmd, hbody, by omega⟩

theorem Framer.Inv.address_length (h : f.Inv) (hp : f.phase = .addressPhase) :
    f.rem ≤ addressLength f.fmt ∧ f.body.length = 1 + (addressLength f.fmt - f.rem) := by
  simp only [Framer.Inv, hp] at h
  obtain ⟨-, -, -, lim, addr, -, hbody, hlen⟩ := h
  have : f.body.length = addr.length + 1 := by simp [hbody]
  omega

theorem Framer.Inv.command_length (h : f.Inv) (hp : f.phase = .commandPhase) :
    (f.ext = false → f.body.length = 1 + addressLength f.fmt) ∧
      (f.ext = true → f.body.length = 2 + addressLength f.fmt ∧
        f.body[1 + addressLength f.fmt]? = some 0xFE#8) := by
  simp only [Framer.Inv, hp] at h
  obtain ⟨-, -, lim, addr, -, hlen, hbody⟩ := h
  constructor
  · intro hext
    have hsize : f.body.length = addr.length + 1 := by simp [hbody, hext]
    omega
  · intro hext
    have hsize : f.body.length = addr.length + 1 + 1 := by simp [hbody, hext]
    refine ⟨by omega, ?_⟩
    rw [hbody, getElem?_after_address hlen, hext]
    rfl

theorem Framer.Inv.counter_length (h : f.Inv) (hp : f.phase = .counterPhase) :
    f.body.length = 2 + addressLength f.fmt ∨ f.body.length = 3 + addressLength f.fmt := by
  simp only [Framer.Inv, hp] at h
  obtain ⟨-, -, -, lim, addr, cmd, -, hlen, hcmd, hbody⟩ := h
  have hsize : f.body.length = addr.length + cmd.length + 1 := by simp [hbody]
  have := hcmd.length_eq
  omega

/-- The counter stands after the limiter, the address and a command of one byte, or of two with FE first. -/
theorem Framer.Inv.counter_and_data (h : f.Inv)
    (hp : f.phase = .dataPhase ∨ f.phase = .checksumPhase) :
    ∃ (front data : Bytes) (n : Byte), f.body = front ++ n :: data ∧
      (front.length = 2 + addressLength f.fmt ∨
        front.length = 3 + addressLength f.fmt ∧
          f.body[1 + addressLength f.fmt]? = some 0xFE#8) ∧
      data.length + f.rem = n.toNat := by
  obtain ⟨lim, addr, cmd, n, data, hlen, hcmd, hbody, hcount⟩ := h.counted hp
  refine ⟨lim :: (addr ++ cmd), data, n, by simp [hbody], ?_, hcount⟩
  have hsize : (lim :: (addr ++ cmd)).length = addr.length + cmd.length + 1 := by simp
  obtain hone | ⟨htwo, hfe⟩ := hcmd.length_eq
  · exact .inl (by omega)
  · refine .inr ⟨by omega, ?_⟩
    rw [hbody, getElem?_after_address hlen, List.getElem?_append_left (by omega), hfe]

/-- `rem` counts the bytes still to come where some are, and is 0 in every other phase (R24). -/
theorem Framer.Inv.rem_by_phase (h : f.Inv) :
    (f.phase = .dataPhase → 1 ≤ f.rem) ∧
      (f.phase ≠ .addressPhase → f.phase ≠ .dataPhase → f.rem = 0) := by
  cases hp : f.phase <;> simp only [Framer.Inv, hp] at h <;> simp [h]

theorem Framer.Inv.rem_le (h : f.Inv) : f.rem ≤ 255 := by
  by_cases ha : f.phase = .addressPhase
  · have := (h.address_length ha).1
    have := addressLength_le_five f.fmt
    omega
  · by_cases hd : f.phase = .dataPhase
    · obtain ⟨_, _, n, -, -, hcount⟩ := h.counter_and_data (.inl hd)
      have := n.isLt
      omega
    · have := h.rem_by_phase.2 ha hd
      omega

theorem Framer.Inv.counted_length_le (h : f.Inv)
    (hp : f.phase = .dataPhase ∨ f.phase = .checksumPhase) : f.body.length ≤ 264 := by
  obtain ⟨front, data, n, hbody, hfront, hcount⟩ := h.counter_and_data hp
  have hsize : f.body.length = front.length + (data.length + 1) := by simp [hbody]
  have := n.isLt
  have := addressLength_le_five f.fmt
  omega

/-- The longest body is a limiter, five address bytes, two command bytes, the counter and 255 data bytes. -/
theorem Framer.Inv.body_length_le (h : f.Inv) : f.body.length ≤ 264 := by
  have hfive := addressLength_le_five f.fmt
  cases hp : f.phase with
  | seekPreamble => simp only [Framer.Inv, hp] at h; simp [h]
  | countPreamble => simp only [Framer.Inv, hp] at h; simp [h]
  | addressPhase => have := h.address_length hp; omega
  | commandPhase =>
    have := h.command_length hp
    cases hext : f.ext <;> simp only [hext, forall_const] at this <;> omega
  | counterPhase => have := h.counter_length hp; omega
  | dataPhase => exact h.counted_length_le (.inl hp)
  | checksumPhase => exact h.counted_length_le (.inr hp)

/-- Once a limiter is recorded, it begins the body and at least two preamble bytes were counted. -/
theorem Framer.Inv.limiter_first (h : f.Inv) (hseek : f.phase ≠ .seekPreamble)
    (hcount : f.phase ≠ .countPreamble) :
    2 ≤ f.pre ∧ ∃ lim rest, f.body = lim :: rest ∧ LimiterFor f.fmt lim := by
  cases hp : f.phase with
  | seekPreamble => exact absurd hp hseek
  | countPreamble => exact absurd hp hcount
  | addressPhase =>
    simp only [Framer.Inv, hp] at h
    obtain ⟨hpre, -, -, lim, addr, hlim, hbody, -⟩ := h
    exact ⟨hpre, lim, _, hbody, hlim⟩
  | commandPhase =>
    simp only [Framer.Inv, hp] at h
    obtain ⟨hpre, -, lim, addr, hlim, -, hbody⟩ := h
    exact ⟨hpre, lim, _, hbody, hlim⟩
  | counterPhase =>
    simp only [Framer.Inv, hp] at h
    obtain ⟨hpre, -, -, lim, addr, cmd, hlim, -, -, hbody⟩ := h
    exact ⟨hpre, lim, _, hbody, hlim⟩
  | dataPhase =>
    simp only [Framer.Inv, hp] at h
    obtain ⟨hpre, -, -, lim, addr, cmd, n, data, hlim, -, -, hbody, -⟩ := h
    exact ⟨hpre, lim, _, hbody, hlim⟩
  | checksumPhase =>
    simp only [Framer.Inv, hp] at h
    obtain ⟨hpre, -, -, lim, addr, cmd, n, data, hlim, -, -, hbody, -⟩ := h
    exact ⟨hpre, lim, _, hbody, hlim⟩

end

/-- Settles O23: phase by phase from the parts of `body` the invariant names. -/
theorem invariantBoundsTheFrame : Obligations.InvariantBoundsTheFrame := by
  intro f h
  refine ⟨h.rem_le, h.body_length_le, h.address_length, h.command_length, h.counter_length, ?_, ?_⟩
  · intro hp
    obtain ⟨front, data, n, hbody, hfront, hcount⟩ := h.counter_and_data hp
    exact ⟨front, data, n, hbody, hfront, hcount, h.rem_by_phase.1,
      fun hc => h.rem_by_phase.2 (by simp [hc]) (by simp [hc])⟩
  · intro hseek hcount
    obtain ⟨hpre, lim, rest, hbody, hlim, -⟩ := h.limiter_first hseek hcount
    exact ⟨hpre, lim, rest, hbody, (framerLimiter_iff lim).mp hlim⟩

/-! ### The unrecorded format (R23) -/

section
variable {f g : Framer}

theorem Framer.SameShown.refl (f : Framer) : f.SameShown f := ⟨rfl, fun _ _ => rfl⟩

/-- Once a limiter is recorded, nothing may differ. -/
theorem Framer.SameShown.eq_of_recorded (h : f.SameShown g) (hseek : f.phase ≠ .seekPreamble)
    (hcount : f.phase ≠ .countPreamble) : f = g := by
  obtain ⟨hg, hfmt⟩ := h
  rw [← hg, ← hfmt hseek hcount]

/-- SeekPreamble carries `fmt` along and goes on to a phase in which it is not recorded either. -/
theorem Framer.pushSeek_sameShown (hp : f.phase = .seekPreamble) (fmt : Format) (b : Byte) :
    (f.pushSeek b).SameShown (({ f with fmt := fmt } : Framer).pushSeek b) := by
  unfold pushSeek
  split
  · exact ⟨rfl, fun _ hcount => absurd rfl hcount⟩
  · exact ⟨rfl, fun hseek => absurd hp hseek⟩

/-- CountPreamble carries `fmt` along while it counts, and overwrites it where the phase ends. -/
theorem Framer.pushCount_sameShown (hp : f.phase = .countPreamble) (fmt : Format) (b : Byte) :
    (f.pushCount b).SameShown (({ f with fmt := fmt } : Framer).pushCount b) := by
  unfold pushCount
  split
  · exact ⟨rfl, fun _ hcount => absurd hp hcount⟩
  · split
    · exact .refl _
    · exact .refl _

theorem Framer.SameShown.push (h : f.SameShown g) (b : Byte) :
    (f.push b).1.SameShown (g.push b).1 ∧ (f.push b).2 = (g.push b).2 := by
  obtain ⟨fmt, rfl⟩ : ∃ fmt, { f with fmt := fmt } = g := ⟨g.fmt, h.1⟩
  by_cases hseek : f.phase = .seekPreamble
  · rw [push_seek hseek, push_seek (f := { f with fmt := fmt }) hseek]
    exact ⟨pushSeek_sameShown hseek fmt b, rfl⟩
  · by_cases hcount : f.phase = .countPreamble
    · rw [push_count hcount, push_count (f := { f with fmt := fmt }) hcount]
      exact ⟨pushCount_sameShown hcount fmt b, rfl⟩
    · rw [← h.eq_of_recorded hseek hcount]
      exact ⟨.refl _, rfl⟩

end

/-- Settles O29: a framer transition does not read an unrecorded `fmt`, and no other operation reads the framer. -/
theorem unrecordedFormatNotObservable : Obligations.UnrecordedFormatNotObservable := by
  intro i s t s' hshown hobs h
  obtain ⟨b, rfl⟩ | rfl | hc := fpush_or_freset_or_isCodec i
  · obtain ⟨hframer, hraw⟩ := hshown.push b
    cases (exec_fpush b s).symm.trans h
    exact ⟨_, exec_fpush b t, hframer, by simp only [hobs, hraw]⟩
  · cases (exec_freset s).symm.trans h
    exact ⟨_, exec_freset t, .refl _, by simp only [hobs]⟩
  · obtain ⟨a, ha⟩ := replies_of_isCodec hc
    cases (ha s).symm.trans h
    exact ⟨_, ha t, hshown, by simp only [hobs]⟩

/-! ### Which operations write the framer (R29) -/

/-- Settles O30: every operation but FPUSH and FRESET is a reply. -/
theorem onlyFramerOperationsWriteTheFramer : Obligations.OnlyFramerOperationsWriteTheFramer := by
  intro i s h
  obtain ⟨a, ha⟩ := replies_of_isCodec h
  exact ⟨a, ha s⟩

end Sys2Proof.Machine

/-!
The proofs of the statements about storage and the order of operations (20_memory.md): the byte orders of R53, the order in which
issues take effect (R56, R60), and what the codec operations read (R57).
-/

namespace Sys2Proof.Machine

/-! ### The order of operations (R56, R60) -/

/-- An operation completes in every state with exactly one observation, and takes no other issue with it. -/
theorem exec_completes (i : Instr) (s : State) :
    ∃ t o, exec i s = .next t ∧ t.issued = s.issued ∧ t.observed = s.observed ++ [o] := by
  obtain ⟨b, rfl⟩ | rfl | hc := fpush_or_freset_or_isCodec i
  · exact ⟨_, _, exec_fpush b s, rfl, rfl⟩
  · exact ⟨_, _, exec_freset s, rfl, rfl⟩
  · obtain ⟨a, ha⟩ := replies_of_isCodec hc
    exact ⟨_, _, ha s, rfl, rfl⟩

/-- What an operation's next state keeps of the issues, and what it adds to the observations. -/
theorem issued_and_observed_of_exec {i : Instr} {s t : State} (h : exec i s = .next t) :
    t.issued = s.issued ∧ ∃ o, t.observed = s.observed ++ [o] := by
  obtain ⟨u, o, hu, hissued, hobserved⟩ := exec_completes i s
  cases hu.symm.trans h
  exact ⟨hissued, o, hobserved⟩

/-- Settles O8: a step executes the oldest issue, and an operation takes no further issue and observes once. -/
theorem stepTakesIssuesInOrder : Obligations.StepTakesIssuesInOrder := by
  intro s t h
  obtain ⟨x, rest, i, hissued, hdecode, hexec⟩ := exec_of_step h
  obtain ⟨hrest, o, hobserved⟩ := issued_and_observed_of_exec hexec
  obtain rfl : t.issued = rest := hrest
  exact ⟨x, o, i, hissued, hdecode, hexec, hobserved⟩

/-! ### What the codec operations read (R57) -/

/-- In one state an operation replies one answer. -/
theorem Replies.answer_unique {i : Instr} {s : State} {a b : Answer} (ha : Replies i s a)
    (hb : Replies i s b) : a = b := by
  unfold Replies at ha hb
  simpa using ha.symm.trans hb

/-- Settles O32: the answers in both states are the one answer the operation replies in every state. -/
theorem codecAnswersIndependentOfState : Obligations.CodecAnswersIndependentOfState := by
  intro i s t a b hc ha hb
  obtain ⟨c, hreply⟩ := replies_of_isCodec hc
  exact (ha.answer_unique (hreply s)).trans ((hreply t).answer_unique hb)

/-! ### The bytes of a number (R53) -/

@[simp] theorem toBytes_length (order : ByteOrder) (n v : Nat) : (toBytes order n v).length = n := by
  cases order with
  | littleEndian => exact leBytes_length n v
  | bigEndian => simp [toBytes]

/-- Under either order the bytes of a number give back the number modulo the width. -/
theorem fromBytes_toBytes (order : ByteOrder) (n v : Nat) :
    fromBytes order (toBytes order n v) = v % 256 ^ n := by
  cases order with
  | littleEndian => exact leValue_leBytes n v
  | bigEndian => simp [fromBytes, toBytes, leValue_leBytes]

/-- Settles O56: a number of the width is its own remainder, and the big-endian bytes are the little-endian ones reversed. -/
theorem bytesOfANumberRoundTrip : Obligations.BytesOfANumberRoundTrip := by
  intro order n v hv
  have hround : fromBytes order (toBytes order n v) = v :=
    (fromBytes_toBytes order n v).trans (Nat.mod_eq_of_lt hv)
  exact ⟨toBytes_length order n v, hround, rfl⟩

end Sys2Proof.Machine

/-!
The proofs of the statements about issues and words (30_encoding.md): an issue decodes to an instruction exactly if it is that
instruction's encoding, which words and operands that leaves out (R83, R84), what a step does with an issue, the answer of every
operation (DESER of the absent operand among them), and the limiter table (R72 to R75).
-/

namespace Sys2Proof.Machine

/-! ### What the operand formats take (R83) -/

section
variable {α β ε : Type} {f : α → β} {x : Except ε α} {e : ε}

theorem except_map_eq_ok {b : β} : x.map f = .ok b ↔ ∃ a, x = .ok a ∧ f a = b := by
  cases x <;> simp [Except.map]

theorem except_map_eq_error : x.map f = .error e ↔ x = .error e := by
  cases x <;> simp [Except.map]

end

/-- `pick` reads only the values that `mk` makes: the domain of one type (R37, R83). -/
def Picks {α : Type} (pick : Value → Option α) (mk : α → Value) : Prop :=
  ∀ v a, pick v = some a → mk a = v

theorem picks_text : Picks Value.text? .text := by intro v a h; cases v <;> cases h; rfl
theorem picks_f32 : Picks Value.f32? .f32 := by intro v a h; cases v <;> cases h; rfl
theorem picks_f64 : Picks Value.f64? .f64 := by intro v a h; cases v <;> cases h; rfl
theorem picks_u16 : Picks Value.u16? .u16 := by intro v a h; cases v <;> cases h; rfl
theorem picks_u32 : Picks Value.u32? .u32 := by intro v a h; cases v <;> cases h; rfl
theorem picks_date : Picks Value.date? .date := by intro v a h; cases v <;> cases h; rfl
theorem picks_flags : Picks Value.flags? .flags := by intro v a h; cases v <;> cases h; rfl
/-- ENC.UNSUP takes any value (R181). -/
theorem picks_any : Picks some id := fun _ _ h => (Option.some.inj h).symm

section
variable {α : Type} {pick : Value → Option α} {mk : α → Value} {o : Operand} {i : Instr} {e : DecodeError}

/-- An operation over bytes takes only operands that its instructions are issued with. -/
theorem map_takeBytes_ok {f : Option Bytes → Instr} (h : (takeBytes o).map f = .ok i) :
    ∃ xs, f xs = i ∧ bytesOperand xs = o := by
  obtain ⟨xs, htake, hf⟩ := except_map_eq_ok.1 h
  exact ⟨xs, hf, takeBytes_ok htake⟩

/-- An operation over a typed value takes only operands that its instructions are issued with. -/
theorem Picks.map_takeValue_ok (hpick : Picks pick mk) {f : Option α → Instr}
    (h : (takeValue pick o).map f = .ok i) : ∃ v, f v = i ∧ valueOperand (v.map mk) = o := by
  obtain ⟨v, htake, hf⟩ := except_map_eq_ok.1 h
  exact ⟨v, hf, takeValue_ok hpick htake⟩

theorem takeBytes_error (h : takeBytes o = .error e) : e = .operandKind := by
  cases o <;> cases h <;> rfl

theorem takeValue_error (h : takeValue pick o = .error e) : e = .operandKind := by
  cases o with
  | value v =>
    cases hv : pick v <;> simp only [takeValue, hv] at h <;> cases h
    rfl
  | _ => cases h <;> rfl

end

/-! ### Decoding inverts encoding (R80 to R83) -/

/-- An instruction is what its operation makes of its operand. -/
theorem withOperand_operand (i : Instr) : withOperand i.opcode i.operand = .ok i := by
  cases i with
  | fpush | freset | ser | errtxt => rfl
  | deser x | decText x | decF32 x | decF64 x | decU16 x | decU32 x | decDate x | decFlags x
  | decUnsup _ x | encText x | encF32 x | encF64 x | encU16 x | encU32 x | encDate x | encFlags x
  | encUnsup _ x => cases x <;> rfl

/-- An operation makes of an operand only the instruction that has this operation and this operand. -/
theorem opcode_and_operand_of_withOperand {op : Opcode} {o : Operand} {i : Instr}
    (h : withOperand op o = .ok i) : i.opcode = op ∧ i.operand = o := by
  cases op with
  | fpush | freset | ser | errtxt =>
    cases o <;> cases h
    exact ⟨rfl, rfl⟩
  | deser | decText | decF32 | decF64 | decU16 | decU32 | decDate | decFlags | decUnsup _ =>
    obtain ⟨xs, rfl, rfl⟩ := map_takeBytes_ok h
    exact ⟨rfl, rfl⟩
  | encText => obtain ⟨v, rfl, rfl⟩ := picks_text.map_takeValue_ok h; exact ⟨rfl, rfl⟩
  | encF32 => obtain ⟨v, rfl, rfl⟩ := picks_f32.map_takeValue_ok h; exact ⟨rfl, rfl⟩
  | encF64 => obtain ⟨v, rfl, rfl⟩ := picks_f64.map_takeValue_ok h; exact ⟨rfl, rfl⟩
  | encU16 => obtain ⟨v, rfl, rfl⟩ := picks_u16.map_takeValue_ok h; exact ⟨rfl, rfl⟩
  | encU32 => obtain ⟨v, rfl, rfl⟩ := picks_u32.map_takeValue_ok h; exact ⟨rfl, rfl⟩
  | encDate => obtain ⟨v, rfl, rfl⟩ := picks_date.map_takeValue_ok h; exact ⟨rfl, rfl⟩
  | encFlags => obtain ⟨v, rfl, rfl⟩ := picks_flags.map_takeValue_ok h; exact ⟨rfl, rfl⟩
  | encUnsup tag =>
    obtain ⟨v, rfl, rfl⟩ := picks_any.map_takeValue_ok h
    exact ⟨rfl, by simp [Instr.operand]⟩

theorem withOperand_eq_ok {op : Opcode} {o : Operand} {i : Instr} :
    withOperand op o = .ok i ↔ i.opcode = op ∧ i.operand = o := by
  constructor
  · exact opcode_and_operand_of_withOperand
  · rintro ⟨rfl, rfl⟩
    exact withOperand_operand i

theorem decode_of_reserved {x : Issue} (h : opcodeOf x.word = none) :
    decode x = .error .reservedWord := by
  simp [decode, h]

theorem decode_of_named {x : Issue} {op : Opcode} (h : opcodeOf x.word = some op) :
    decode x = withOperand op x.operand := by
  simp [decode, h]

/-- An issue decodes to an instruction exactly if its word names the instruction's operation and its operand is the
instruction's. -/
theorem decode_eq_ok {x : Issue} {i : Instr} :
    decode x = .ok i ↔ opcodeOf x.word = some i.opcode ∧ i.operand = x.operand := by
  cases hop : opcodeOf x.word with
  | none => simp [decode_of_reserved hop]
  | some op => simp [decode_of_named hop, withOperand_eq_ok, eq_comm (a := op)]

/-- An instruction is well formed exactly if its operation's tag is (R82). -/
theorem tagOk_opcode (i : Instr) : i.opcode.tagOk = i.wf := by
  cases i <;> rfl

/-- Settles O3: the word of a well-formed instruction names its operation, and the operand is its own. -/
theorem decodeEncodeAgree : Obligations.DecodeEncodeAgree := by
  intro i hwf
  have hword : opcodeOf i.opcode.word = some i.opcode := opcodeOf_word _ ((tagOk_opcode i).trans hwf)
  exact decode_eq_ok.2 ⟨hword, rfl⟩

/-- Settles O4: a word that names an operation is that operation's only word. -/
theorem decodedIssueIsItsEncoding : Obligations.DecodedIssueIsItsEncoding := by
  rintro ⟨word, operand⟩ i h
  obtain ⟨hopcode, rfl⟩ := decode_eq_ok.1 h
  obtain ⟨rfl, htag⟩ := word_of_opcodeOf word i.opcode hopcode
  exact ⟨(tagOk_opcode i).symm.trans htag, rfl⟩

/-- Settles O1: each sample is the encoding of its instruction. -/
theorem sampleWordsDecode : Obligations.SampleWordsDecode :=
  ⟨decodeEncodeAgree (.fpush 0xFF#8) rfl, decodeEncodeAgree .freset rfl,
    decodeEncodeAgree (.deser (some [0x06#8])) rfl, decodeEncodeAgree (.errtxt 0x05#8) rfl,
    decodeEncodeAgree (.encU16 (some 0x1234#16)) rfl,
    decodeEncodeAgree (.encUnsup 10#4 (some .foreign)) rfl,
    decodeEncodeAgree (.decU32 (some [0x56#8, 0x34#8, 0x12#8])) rfl,
    decodeEncodeAgree (.decUnsup 15#4 none) rfl⟩

/-! ### Words and the opcode table (R81, R82) -/

/-- An operation's word lies in the operation's own row alone. -/
theorem mnemonicsAt_word (op : Opcode) (h : op.tagOk = true) : mnemonicsAt op.word = [op.mnemonic] := by
  cases op with
  | encUnsup tag => exact Laws.TableRow.unsup_enc_rows tag h
  | decUnsup tag => exact Laws.TableRow.unsup_dec_rows tag h
  | _ => exact Laws.TableRow.fixed_rows _ (by decide)

/-- A word that names no operation lies in no row. -/
theorem mnemonicsAt_of_reserved : ∀ w : Byte, opcodeOf w = none → mnemonicsAt w = [] := by decide

/-- Settles O2: a word that names an operation is that operation's word. -/
theorem wordsNameTheirTableRow : Obligations.WordsNameTheirTableRow := by
  intro w
  cases hop : opcodeOf w with
  | none => exact mnemonicsAt_of_reserved w hop
  | some op =>
    obtain ⟨rfl, htag⟩ := word_of_opcodeOf w op hop
    exact mnemonicsAt_word op htag

/-! ### Which issues decode (R83, R84) -/

/-- An instruction's operand has the format of its operation. -/
theorem fitsFormat_operand (i : Instr) : FitsFormat i.opcode i.operand := by
  cases i with
  | freset => rfl
  | fpush | ser | errtxt => exact ⟨_, rfl⟩
  | deser x | decText x | decF32 x | decF64 x | decU16 x | decU32 x | decDate x | decFlags x
  | decUnsup _ x | encText x | encF32 x | encF64 x | encU16 x | encU32 x | encDate x | encFlags x
  | encUnsup _ x =>
    cases x with
    | none => exact .inl rfl
    | some a => exact .inr ⟨a, rfl⟩

/-- Every operand of an operation's format has a meaning with it. -/
theorem exists_withOperand_of_fitsFormat {op : Opcode} {o : Operand} (h : FitsFormat op o) :
    ∃ i, withOperand op o = .ok i := by
  cases op with
  | freset => cases h; exact ⟨_, rfl⟩
  | fpush | ser | errtxt => obtain ⟨a, rfl⟩ := h; exact ⟨_, rfl⟩
  | _ => obtain rfl | ⟨a, rfl⟩ := h <;> exact ⟨_, rfl⟩

/-- Settles O5: an instruction's operand fits its operation, and an operand that fits gives an instruction. -/
theorem issuesDecodeByOperandFormat : Obligations.IssuesDecodeByOperandFormat := by
  intro x
  constructor
  · rintro ⟨i, h⟩
    obtain ⟨hopcode, hoperand⟩ := decode_eq_ok.1 h
    exact ⟨i.opcode, hopcode, hoperand ▸ fitsFormat_operand i⟩
  · rintro ⟨op, hopcode, hfits⟩
    rw [decode_of_named hopcode]
    exact exists_withOperand_of_fitsFormat hfits

/-- An operation refuses an operand only for its format. -/
theorem withOperand_error {op : Opcode} {o : Operand} {e : DecodeError}
    (h : withOperand op o = .error e) : e = .operandKind := by
  cases op with
  | fpush | freset | ser | errtxt => cases o <;> cases h <;> rfl
  | deser | decText | decF32 | decF64 | decU16 | decU32 | decDate | decFlags | decUnsup _ =>
    exact takeBytes_error (except_map_eq_error.1 h)
  | _ => exact takeValue_error (except_map_eq_error.1 h)

/-- An issue is rejected as reserved exactly for a word that names no operation, whatever its operand (R84 (a)). -/
theorem decode_eq_reservedWord {x : Issue} :
    decode x = .error .reservedWord ↔ opcodeOf x.word = none := by
  refine ⟨fun h => ?_, decode_of_reserved⟩
  cases hop : opcodeOf x.word with
  | none => rfl
  | some op => cases withOperand_error ((decode_of_named hop).symm.trans h)

/-- The words of R84 (a). -/
theorem opcodeOf_eq_none_iff : ∀ w : Byte, opcodeOf w = none ↔
    (0x02 ≤ w.toNat ∧ w.toNat ≤ 0x0F) ∨ (0x13 ≤ w.toNat ∧ w.toNat ≤ 0x1F) ∨ 0x40 ≤ w.toNat := by decide

/-! ### What a step does with an issue (R60, R80, R84) -/

section
variable {s : State} {x : Issue} {rest : List Issue} (hissued : s.issued = x :: rest)
include hissued

theorem step_of_decode_ok {i : Instr} (h : decode x = .ok i) : step s = exec i { s with issued := rest } := by
  simp [step, State.fetch_cons hissued, h]

theorem step_of_decode_error {e : DecodeError} (h : decode x = .error e) :
    step s = .refused (refusalOf x.word e) := by
  simp [step, State.fetch_cons hissued, h]

/-- A step refuses its issue as reserved exactly if the decoder does: no operation refuses. -/
theorem step_eq_reservedWord_iff :
    step s = .refused (.reservedWord x.word) ↔ decode x = .error .reservedWord := by
  cases hdecode : decode x with
  | ok i =>
    obtain ⟨t, -, hexec, -⟩ := exec_completes i { s with issued := rest }
    simp [step_of_decode_ok hissued hdecode, hexec]
  | error e => cases e <;> simp [step_of_decode_error hissued hdecode, refusalOf]

end

theorem step_of_nothing_issued {s : State} (h : s.issued = []) : step s = .fault .noOperation := by
  simp [step, State.fetch_nil h]

/-- Settles O6: a step refuses a word as reserved exactly if the word names no operation. -/
theorem reservedWordsRefused : Obligations.ReservedWordsRefused := by
  intro s x rest hissued
  calc step s = .refused (.reservedWord x.word)
    _ ↔ decode x = .error .reservedWord := step_eq_reservedWord_iff hissued
    _ ↔ opcodeOf x.word = none := decode_eq_reservedWord
    _ ↔ _ := opcodeOf_eq_none_iff x.word

/-- Settles O7: the three things a step can meet. -/
theorem stepExecutesTheNextIssue : Obligations.StepExecutesTheNextIssue :=
  ⟨fun _ _ _ _ hissued => step_of_decode_ok hissued,
    fun _ _ _ _ hissued => step_of_decode_error hissued, fun _ => step_of_nothing_issued⟩

/-! ### Every operation answers (R222), DESER of the absent operand too -/

/-- Settles O9: FPUSH, FRESET and the codec operations each give a next state with one more observation. -/
theorem everyOperationAnswersOnce : Obligations.EveryOperationAnswersOnce :=
  exec_completes

theorem readField_error {n : Nat} {xs : Bytes} {e : OpError} (h : readField n xs = .error e) :
    e = .malformedFrame .truncated := by
  unfold readField at h
  split at h <;> cases h
  rfl

theorem readCommand_error {xs : Bytes} {e : OpError} (h : readCommand xs = .error e) :
    e = .malformedFrame .truncated := by
  unfold readCommand at h
  split at h
  · cases h; rfl
  · split at h
    · split at h <;> cases h
      rfl
    · cases h

theorem readCounted_error {xs : Bytes} {e : OpError} (h : readCounted xs = .error e) :
    e = .malformedFrame .truncated ∨ e = .malformedFrame .count := by
  unfold readCounted at h
  split at h
  · cases h; exact .inl rfl
  · split at h
    · cases h; exact .inr rfl
    · split at h <;> cases h
      exact .inr rfl

/-- The fields fail where one lies past the checksum, or where the counter is wrong (R134, R135). -/
theorem readFields_error {preamble : Nat} {lim : Byte} {rest : Bytes} {e : OpError}
    (h : readFields preamble lim rest = .error e) :
    e = .malformedFrame .truncated ∨ e = .malformedFrame .count := by
  unfold readFields at h
  split at h
  · rename_i hfield
    cases h
    exact .inl (readField_error hfield)
  · split at h
    · rename_i hcommand
      cases h
      exact .inl (readCommand_error hcommand)
    · split at h
      · rename_i hcounted
        cases h
        exact readCounted_error hcounted
      · cases h

/-- DESER raises only the errors that R221 gives it, whichever operand it was issued with. -/
theorem deserialize_error {bytes : Bytes} {e : OpError} (h : deserialize bytes = .error e)
    (raw : Option Bytes) : MayRaise (.deser raw) e := by
  simp only [deserialize] at h
  split at h
  · cases h; exact .inl rfl
  · split at h
    · cases h; exact .inr (.inr (.inr rfl))
    · unfold readChecked at h
      split at h
      · cases h; exact .inl rfl
      · split at h
        · obtain he | he := readFields_error h
          · exact .inl he
          · exact .inr (.inr (.inl he))
        · cases h; exact .inr (.inl rfl)

/-- DESER replies with what the frame of its operand reads as. -/
theorem replies_deser (raw : Option Bytes) (s : State) :
    Replies (.deser raw) s (answerWith .response (deserialize (rawFrame raw))) := by
  rw [Replies, exec, execDeser, State.reply_eq_observe, State.observe]

/-- Settles O58: the absent operand is read as the free frame that stands for it, on which DESER answers like on any other. -/
theorem deserOfAbsentAnswers : Obligations.DeserOfAbsentAnswers := by
  refine ⟨_, replies_deser none, ?_⟩
  cases hread : deserialize (rawFrame none) with
  | ok r => exact .inl ⟨r, rfl⟩
  | error e => exact .inr ⟨e, rfl, deserialize_error hread none⟩

/-! ### The limiter table (R72 to R75) -/

theorem knownLimiter_iff (lim : Byte) :
    knownLimiter lim = true ↔ ∃ fmt mode, lim = limiterByte fmt mode := by
  constructor
  · intro h
    simp only [knownLimiter, Bool.or_eq_true, beq_iff_eq, or_assoc] at h
    obtain rfl | rfl | rfl | rfl | rfl | rfl := h
    · exact ⟨.short, .batch, rfl⟩
    · exact ⟨.long, .batch, rfl⟩
    · exact ⟨.short, .onDemand, rfl⟩
    · exact ⟨.long, .onDemand, rfl⟩
    · exact ⟨.short, .acknowledge, rfl⟩
    · exact ⟨.long, .acknowledge, rfl⟩
  · rintro ⟨fmt, mode, rfl⟩
    cases fmt <;> cases mode <;> rfl

theorem isBatchLimiter_iff (lim : Byte) : isBatchLimiter lim = true ↔ lim = 0x01#8 ∨ lim = 0x81#8 := by
  simp [isBatchLimiter]

section
variable (fmt : Format) (mode : Mode)

theorem limiterFormat_limiterByte : limiterFormat (limiterByte fmt mode) = fmt := by
  cases fmt <;> cases mode <;> decide

theorem limiterMode_limiterByte : limiterMode (limiterByte fmt mode) = some mode := by
  cases fmt <;> cases mode <;> decide

theorem isBatchLimiter_limiterByte : isBatchLimiter (limiterByte fmt mode) = true ↔ mode = .batch := by
  cases fmt <;> cases mode <;> decide

theorem framerLimiter_limiterByte :
    framerLimiter (limiterByte fmt mode) = true ↔ mode ≠ .acknowledge := by
  cases fmt <;> cases mode <;> decide

end

/-- Settles O33: what the limiter of each format and mode reads back as, and which bytes each set of limiters holds. -/
theorem limiterTable : Obligations.LimiterTable := by
  refine ⟨⟨rfl, rfl, rfl, rfl, rfl, rfl⟩, fun fmt mode => ?_, fun lim => (knownLimiter_iff lim).1,
    isBatchLimiter_iff, framerLimiter_iff⟩
  exact ⟨(knownLimiter_iff _).2 ⟨fmt, mode, rfl⟩, limiterFormat_limiterByte fmt mode,
    limiterMode_limiterByte fmt mode, isBatchLimiter_limiterByte fmt mode,
    framerLimiter_limiterByte fmt mode⟩

end Sys2Proof.Machine

/-!
The proofs of the statements about the ByteStreamFramer (40_framer.md): what a byte does in each phase (R101 to R109), what the host
observes of an operation (R111, R117, R118), and what the framer makes of a byte stream (R110, R115, R116).
-/

namespace Sys2Proof.Machine

/-! ### One byte, phase by phase (R101 to R108) -/

/-- AddressPhase and DataPhase take a byte alike: it is appended, and the last of the `rem` bytes leads to the next phase. -/
def Framer.countDown (f : Framer) (next : Phase) (b : Byte) : Framer :=
  { f with
    rem := f.rem - 1
    phase := if f.rem - 1 = 0 then next else f.phase
    body := f.body ++ [b] }

section
variable {f : Framer} {b : Byte}

theorem Framer.countDown_last (next : Phase) (h : f.rem = 1) :
    f.countDown next b = { f with phase := next, rem := 0, body := f.body ++ [b] } := by
  simp [countDown, h]

theorem Framer.countDown_more (next : Phase) (h : 2 ≤ f.rem) :
    f.countDown next b = { f with rem := f.rem - 1, body := f.body ++ [b] } := by
  have hmore : f.rem - 1 ≠ 0 := by omega
  simp [countDown, hmore]

theorem Framer.countDown_phase (f : Framer) (next : Phase) (b : Byte) :
    (f.countDown next b).phase = next ∨ (f.countDown next b).phase = f.phase := by
  unfold countDown
  split
  · exact .inl rfl
  · exact .inr rfl

theorem Framer.push_address_countDown (hp : f.phase = .addressPhase) :
    f.push b = (f.countDown .commandPhase b, none) :=
  push_address hp b

theorem Framer.push_data_countDown (hp : f.phase = .dataPhase) :
    f.push b = (f.countDown .checksumPhase b, none) :=
  push_data hp b

theorem Framer.push_seek_eq (hp : f.phase = .seekPreamble) :
    f.push b =
      (if b = 0xFF#8 then { f with phase := .countPreamble, pre := 1 } else f, none) :=
  push_seek hp b

theorem Framer.push_count_preamble (hp : f.phase = .countPreamble) :
    f.push 0xFF#8 = ({ f with pre := f.pre + 1 }, none) :=
  push_count hp _

theorem Framer.push_count_limiter (hp : f.phase = .countPreamble) (hpre : 2 ≤ f.pre)
    (hlim : framerLimiter b = true) :
    f.push b = ({ f with
      phase := .addressPhase
      fmt := limiterFormat b
      rem := addressLength (limiterFormat b)
      body := [b] }, none) := by
  have hne : b ≠ preambleSymbol := knownLimiter_ne_preamble (framerLimiter_known hlim)
  simp [push_count hp, pushCount, hne, hpre, hlim]

theorem Framer.push_count_discard (hp : f.phase = .countPreamble) (hne : b ≠ 0xFF#8)
    (hno : ¬(2 ≤ f.pre ∧ framerLimiter b = true)) : f.push b = (Framer.reset, none) := by
  simp only [push_count hp, pushCount, preambleSymbol, if_neg hne, ge_iff_le, if_neg hno]

theorem Framer.push_command_extension (hp : f.phase = .commandPhase) (hext : f.ext = false) :
    f.push 0xFE#8 = ({ f with ext := true, body := f.body ++ [0xFE#8] }, none) := by
  simp [push_command hp, pushCommand, append, hext, extensionByte]

theorem Framer.push_command_last (hp : f.phase = .commandPhase)
    (h : f.ext = true ∨ b ≠ 0xFE#8) :
    f.push b =
      ({ f with phase := .counterPhase, ext := false, body := f.body ++ [b] }, none) := by
  have hlast : ¬(f.ext = false ∧ b = extensionByte) := by
    rintro ⟨hext, hb⟩
    obtain h | h := h
    · exact absurd (hext.symm.trans h) (by decide)
    · exact h hb
  simp only [push_command hp, pushCommand, append, if_neg hlast]

theorem Framer.push_counter_eq (hp : f.phase = .counterPhase) :
    f.push b = ({ f with
      phase := if b.toNat = 0 then .checksumPhase else .dataPhase
      rem := b.toNat
      body := f.body ++ [b] }, none) := by
  have hzero : b = 0#8 ↔ b.toNat = 0 := BitVec.toNat_inj.symm
  simp only [push_counter hp, pushCounter, append, hzero]

end

/-- An FPUSH whose transition emits nothing. -/
theorem exec_fpush_of_push_none {s : State} {b : Byte} {f : Framer} (h : s.framer.push b = (f, none)) :
    exec (.fpush b) s = .next (s.silent f) := by
  rw [exec_fpush, h]
  rfl

/-- Settles O11: FF in CountPreamble is one more preamble byte. -/
theorem countPreambleCountsEveryFF : Obligations.CountPreambleCountsEveryFF :=
  fun _ hp => exec_fpush_of_push_none (Framer.push_count_preamble hp)

/-- Settles O12: a limiter of the framer's set begins a frame of its format; everything else leads to the reset state. -/
theorem limiterCandidateTested : Obligations.LimiterCandidateTested := by
  intro s b hp hne
  refine ⟨fun hpre hb => ?_, fun hpre hb => ?_, fun hno => ?_⟩
  · obtain rfl | rfl := hb <;>
      exact exec_fpush_of_push_none (Framer.push_count_limiter hp hpre (by decide))
  · obtain rfl | rfl := hb <;>
      exact exec_fpush_of_push_none (Framer.push_count_limiter hp hpre (by decide))
  · have hdiscard : ¬(2 ≤ s.framer.pre ∧ framerLimiter b = true) := by
      rw [framerLimiter_iff]
      rintro ⟨hpre, hlim⟩
      obtain hpre' | ⟨h1, h2, h3, h4⟩ := hno
      · omega
      · simp [h1, h2, h3, h4] at hlim
    exact ⟨Framer.reset, Framer.reset_atReset,
      exec_fpush_of_push_none (Framer.push_count_discard hp hne hdiscard)⟩

/-- Settles O13: AddressPhase counts down to CommandPhase, and the invariant keeps `ext` false there. -/
theorem addressByteTaken : Obligations.AddressByteTaken := by
  intro s b hp hinv
  simp only [Framer.Inv, hp] at hinv
  obtain ⟨-, hext, -⟩ := hinv
  have hpush := exec_fpush_of_push_none (Framer.push_address_countDown (b := b) hp)
  refine ⟨fun hlast => ?_, fun hmore => ?_⟩
  · rw [hpush, Framer.countDown_last _ hlast, ← hext]
  · rw [hpush, Framer.countDown_more _ hmore]

/-- Settles O14: only a first byte FE stays in CommandPhase. -/
theorem commandByteTaken : Obligations.CommandByteTaken := by
  intro s b hp
  constructor
  · rintro ⟨hext, rfl⟩
    exact exec_fpush_of_push_none (Framer.push_command_extension hp hext)
  · exact fun h => exec_fpush_of_push_none (Framer.push_command_last hp h)

/-- Settles O15: the counter byte is 0 exactly if its number is. -/
theorem counterByteTaken : Obligations.CounterByteTaken :=
  fun _ _ hp => exec_fpush_of_push_none (Framer.push_counter_eq hp)

/-- Settles O16: DataPhase counts down to ChecksumPhase. -/
theorem dataByteTaken : Obligations.DataByteTaken := by
  intro s b hp _
  have hpush := exec_fpush_of_push_none (Framer.push_data_countDown (b := b) hp)
  refine ⟨fun hlast => ?_, fun hmore => ?_⟩
  · rw [hpush, Framer.countDown_last _ hlast]
  · rw [hpush, Framer.countDown_more _ hmore]

/-- Settles O17: the transition completes the frame and resets the framer. -/
theorem checksumByteEmitsTheFrame : Obligations.ChecksumByteEmitsTheFrame := by
  intro s b hp
  refine ⟨Framer.reset, Framer.reset_atReset, ?_⟩
  rw [exec_fpush, Framer.push_checksum hp]
  rfl

/-- Two framers in `S0` differ at most in `fmt`. -/
theorem Framer.AtReset.sameShown {f g : Framer} (hf : f.AtReset) (hg : g.AtReset) : f.SameShown g := by
  obtain ⟨hphase, hpre, hrem, hext, hbody⟩ := hf
  obtain ⟨hphase', hpre', hrem', hext', hbody'⟩ := hg
  refine ⟨?_, fun hseek => absurd hphase hseek⟩
  rw [Framer.mk.injEq]
  simp [*]

/-- Settles O18: FRESET leads to the reset state, and all states in `S0` show the same. -/
theorem fresetRestoresS0 : Obligations.FresetRestoresS0 :=
  fun s => ⟨_, exec_freset s, Framer.reset_atReset, rfl, rfl, fun h => h.sameShown Framer.reset_atReset⟩

/-- Settles O20: each of the four phases appends the byte and leads to itself or to a later one of the frame. -/
theorem noResyncInsideAFrame : Obligations.NoResyncInsideAFrame := by
  intro s b _ hseek hcount hchecksum
  refine ⟨_, exec_fpush b s, ?_⟩
  cases hp : s.framer.phase with
  | seekPreamble => exact absurd hp hseek
  | countPreamble => exact absurd hp hcount
  | checksumPhase => exact absurd hp hchecksum
  | addressPhase =>
    rw [Framer.push_address_countDown hp]
    refine ⟨rfl, rfl, rfl, ?_⟩
    obtain h | h := s.framer.countDown_phase .commandPhase b <;> simp [h, hp]
  | commandPhase =>
    by_cases hb : s.framer.ext = false ∧ b = 0xFE#8
    · obtain ⟨hext, rfl⟩ := hb
      rw [Framer.push_command_extension hp hext]
      exact ⟨rfl, rfl, rfl, hseek, hcount⟩
    · rw [Framer.push_command_last hp (by simpa [or_iff_not_imp_left] using hb)]
      exact ⟨rfl, rfl, rfl, by simp⟩
  | counterPhase =>
    rw [Framer.push_counter_eq hp]
    refine ⟨rfl, rfl, rfl, ?_⟩
    dsimp only
    split <;> simp
  | dataPhase =>
    rw [Framer.push_data_countDown hp]
    refine ⟨rfl, rfl, rfl, ?_⟩
    obtain h | h := s.framer.countDown_phase .checksumPhase b <;> simp [h, hp]

/-! ### What the host observes of one operation (R111, R117, R118) -/

/-- An answer that is no frame, and an error only as `mayRaise` allows. -/
def Answer.Within (mayRaise : OpError → Prop) : Answer → Prop
  | .result r => ∀ raw, r ≠ .frame raw
  | .error e => mayRaise e

section
variable {α : Type} {mayRaise : OpError → Prop}

theorem within_answerWith {result : α → Result} {x : Except OpError α}
    (hresult : ∀ v raw, result v ≠ .frame raw) (herror : ∀ e, x = .error e → mayRaise e) :
    (answerWith result x).Within mayRaise := by
  cases x with
  | ok v => exact hresult v
  | error e => exact herror e rfl

theorem within_encodeOptional {enc : α → Answer} {v : Option α} (h : ∀ v, (enc v).Within mayRaise) :
    (encodeOptional enc v).Within mayRaise := by
  cases v with
  | none => exact nofun
  | some v => exact h v

theorem within_decodeOptional {dec : Bytes → Answer} {xs : Option Bytes}
    (hmissing : mayRaise .missingInput) (h : ∀ xs, (dec xs).Within mayRaise) :
    (decodeOptional dec xs).Within mayRaise := by
  cases xs with
  | none => exact hmissing
  | some xs => exact h xs

theorem within_decodeExact {n : Nat} {dec : Bytes → Answer} (hlength : mayRaise (.range .wrongLength))
    (h : ∀ xs, (dec xs).Within mayRaise) (xs : Bytes) : (decodeExact n dec xs).Within mayRaise := by
  unfold decodeExact
  split
  · exact hlength
  · exact h xs

theorem within_encodeU32 (v : BitVec 32) : (encodeU32 v).Within (· = .range .outOfRange) := by
  unfold encodeU32
  split
  · rfl
  · exact nofun

theorem within_encodeFlags (f : FlagSet) : (encodeFlags f).Within (· = .range .tooManyFlags) := by
  unfold encodeFlags
  split
  · rfl
  · exact nofun

theorem within_decodeDate (hlength : mayRaise (.range .wrongLength))
    (hdate : mayRaise (.range .invalidDate)) (xs : Bytes) : (decodeDate xs).Within mayRaise := by
  unfold decodeDate
  split
  · split
    · exact nofun
    · exact hdate
  · exact hlength

theorem within_decodeFlags (hlength : mayRaise (.range .wrongLength)) (xs : Bytes) :
    (decodeFlags xs).Within mayRaise := by
  unfold decodeFlags
  split
  · exact nofun
  · exact hlength

end

theorem serialize_error {included : Bool} {q : Request} {e : OpError}
    (h : serialize included q = .error e) : e = .range .payloadTooLong := by
  simp only [serialize] at h
  split at h <;> cases h
  rfl

/-- A codec operation replies no frame, and an error only as R221's table says. -/
theorem exec_replies_within {i : Instr} (h : IsCodec i) :
    ∃ a, (∀ s, exec i s = .next (s.reply a)) ∧ a.Within (MayRaise i) := by
  obtain ⟨hpush, hreset⟩ := h
  cases i with
  | fpush b => exact absurd rfl (hpush b)
  | freset => exact absurd rfl hreset
  | deser raw =>
    exact ⟨_, fun _ => rfl, within_answerWith nofun fun _ he => deserialize_error he raw⟩
  | ser q => exact ⟨_, fun _ => rfl, within_answerWith nofun fun _ => serialize_error⟩
  | errtxt c => exact ⟨.result (.text (errorText c)), fun _ => rfl, nofun⟩
  | encText v | encF32 v | encF64 v | encU16 v | encDate v =>
    exact ⟨_, fun _ => rfl, within_encodeOptional fun _ => nofun⟩
  | encU32 v => exact ⟨_, fun _ => rfl, within_encodeOptional within_encodeU32⟩
  | encFlags f => exact ⟨_, fun _ => rfl, within_encodeOptional within_encodeFlags⟩
  | encUnsup tag v => exact ⟨_, fun _ => rfl, within_encodeOptional fun _ => rfl⟩
  | decText xs => exact ⟨_, fun _ => rfl, within_decodeOptional rfl fun _ => nofun⟩
  | decF32 xs | decF64 xs | decU16 xs | decU32 xs =>
    exact ⟨_, fun _ => rfl,
      within_decodeOptional (.inl rfl) (within_decodeExact (.inr rfl) fun _ => nofun)⟩
  | decDate xs =>
    exact ⟨_, fun _ => rfl, within_decodeOptional (.inl rfl)
      (within_decodeExact (.inr (.inl rfl)) (within_decodeDate (.inr (.inl rfl)) (.inr (.inr rfl))))⟩
  | decFlags xs =>
    exact ⟨_, fun _ => rfl, within_decodeOptional (.inl rfl)
      (within_decodeExact (.inr rfl) (within_decodeFlags (.inr rfl)))⟩
  | decUnsup tag xs =>
    exact ⟨_, fun _ => rfl, within_decodeOptional (.inl rfl) fun _ => .inr rfl⟩

@[simp] theorem pushObservation_frameReady (out : Option Bytes) :
    (pushObservation out).frameReady = out.isSome := by
  cases out <;> rfl

theorem pushObservation_answer_eq_frame {out : Option Bytes} {raw : Bytes} :
    (pushObservation out).answer = .result (.frame raw) ↔ out = some raw := by
  cases out <;> simp [pushObservation]

theorem pushObservation_answer_isResult (out : Option Bytes) :
    ∃ r, (pushObservation out).answer = .result r := by
  cases out <;> exact ⟨_, rfl⟩

/-- A transition emits a frame exactly in ChecksumPhase (R108). -/
theorem Framer.push_isSome_iff (f : Framer) (b : Byte) :
    (f.push b).2.isSome = true ↔ f.phase = .checksumPhase := by
  cases hp : f.phase <;> simp [Framer.push, hp]

/-- What the host observes of an operation: of FPUSH its transition, of FRESET nothing, of a codec operation a reply. -/
theorem observation_of_exec {i : Instr} {s t : State} {o : Observation} (h : exec i s = .next t)
    (ho : t.observed = s.observed ++ [o]) :
    (∃ b, i = .fpush b ∧ o = pushObservation (s.framer.push b).2) ∨
      (i = .freset ∧ o = ⟨.result .nothing, false⟩) ∨
      (IsCodec i ∧ t.framer = s.framer ∧ ∃ a, a.Within (MayRaise i) ∧ o = ⟨a, false⟩) := by
  obtain ⟨b, rfl⟩ | rfl | hc := fpush_or_freset_or_isCodec i
  · cases (exec_fpush b s).symm.trans h
    exact .inl ⟨b, rfl, by simpa using ho.symm⟩
  · cases (exec_freset s).symm.trans h
    exact .inr (.inl ⟨rfl, by simpa using ho.symm⟩)
  · obtain ⟨a, ha, hwithin⟩ := exec_replies_within hc
    cases (ha s).symm.trans h
    exact .inr (.inr ⟨hc, State.reply_framer a s, a, hwithin, by simpa using ho.symm⟩)

/-- Only DESER may raise MalformedFrame (R221). -/
theorem MayRaise.deser_of_malformedFrame {i : Instr} {r : FrameReason}
    (h : MayRaise i (.malformedFrame r)) : ∃ raw, i = .deser raw := by
  cases i with
  | deser raw => exact ⟨raw, rfl⟩
  | _ => simp [MayRaise] at h

/-- Settles O19: FPUSH observes a result, and the error of any other operation is one of its own in R221's table. -/
theorem fpushNeverRaises : Obligations.FpushNeverRaises := by
  constructor
  · intro b s
    obtain ⟨r, hr⟩ := pushObservation_answer_isResult (s.framer.push b).2
    exact ⟨_, r, (pushObservation (s.framer.push b).2).frameReady, exec_fpush b s, by rw [← hr]⟩
  · intro i s t r ready h ho
    obtain ⟨b, -, hobs⟩ | ⟨-, hobs⟩ | ⟨-, hframer, a, hwithin, hobs⟩ := observation_of_exec h ho
    · obtain ⟨r', hr'⟩ := pushObservation_answer_isResult (s.framer.push b).2
      rw [← hobs] at hr'
      cases hr'
    · cases hobs
    · cases hobs
      exact ⟨MayRaise.deser_of_malformedFrame hwithin, hframer⟩

/-- In ChecksumPhase the preamble run, the body and any last byte make a frame of R71's form. -/
theorem Framer.Inv.framable_completed {f : Framer} (h : f.Inv) (hp : f.phase = .checksumPhase) (b : Byte) :
    Framable (f.completed b) := by
  simp only [Framer.Inv, hp] at h
  obtain ⟨hpre, -, -, lim, addr, cmd, n, data, ⟨hlim, hfmt⟩, haddr, hcmd, hbody, hdata⟩ := h
  refine ⟨f.pre, lim, addr, cmd, n, data, b, hpre, hlim, hfmt ▸ haddr, hcmd, hdata, ?_⟩
  simp [completed, preambleRun, preambleSymbol, hbody]

/-- Settles O24: a frame is observed only of the completing transition. -/
theorem emittedFramesAreFramable : Obligations.EmittedFramesAreFramable := by
  intro s t b raw ready hinv h ho
  cases (exec_fpush b s).symm.trans h
  have hanswer : (pushObservation (s.framer.push b).2).answer = .result (.frame raw) := by
    rw [List.singleton_inj.mp (List.append_cancel_left ho)]
  obtain ⟨hp, rfl, -⟩ := Framer.push_emits (pushObservation_answer_eq_frame.mp hanswer)
  exact hinv.framable_completed hp b

/-- Settles O25: the event and the frame are observed of the transition in ChecksumPhase, and of no other operation. -/
theorem frameReadyExactlyAtTheChecksum : Obligations.FrameReadyExactlyAtTheChecksum := by
  intro i s t o h ho
  obtain ⟨b, rfl, rfl⟩ | ⟨rfl, rfl⟩ | ⟨⟨hpush, -⟩, -, a, hwithin, rfl⟩ := observation_of_exec h ho
  · simp [pushObservation_answer_eq_frame, Framer.push_isSome_iff, ← Option.isSome_iff_exists]
  · simp
  · have hnoframe : ¬∃ raw, a = .result (.frame raw) := by
      rintro ⟨raw, rfl⟩
      exact hwithin raw rfl
    simp [hpush, hnoframe]

/-! ### A stream of bytes (R110) -/

/-- The framer after a stream of bytes, and what each byte emitted. -/
def Framer.pushAll : Framer → Bytes → Framer × List (Option Bytes)
  | f, [] => (f, [])
  | f, b :: bs => (((f.push b).1.pushAll bs).1, (f.push b).2 :: ((f.push b).1.pushAll bs).2)

theorem Framer.pushAll_append (f : Framer) (xs ys : Bytes) :
    f.pushAll (xs ++ ys) =
      (((f.pushAll xs).1.pushAll ys).1, (f.pushAll xs).2 ++ ((f.pushAll xs).1.pushAll ys).2) := by
  induction xs generalizing f with
  | nil => rfl
  | cons b bs ih => simp [pushAll, ih]

/-- The state after the block has taken in a stream of bytes. -/
def State.pushAll (s : State) (bs : Bytes) : State :=
  { framer := (s.framer.pushAll bs).1
    issued := s.issued
    observed := s.observed ++ (s.framer.pushAll bs).2.map pushObservation }

theorem State.pushAll_nil (s : State) : s.pushAll [] = s := by
  simp [pushAll, Framer.pushAll]

theorem State.pushAll_append (s : State) (xs ys : Bytes) :
    s.pushAll (xs ++ ys) = (s.pushAll xs).pushAll ys := by
  simp [pushAll, Framer.pushAll_append]

theorem exec_fpush_pushAll (b : Byte) (s : State) : exec (.fpush b) s = .next (s.pushAll [b]) :=
  exec_fpush b s

/-- As many steps as bytes were delivered execute them in order and leave the issues behind them. -/
theorem run_fpushn (bs : Bytes) (s : State) :
    run bs.length { s with issued := fpushn bs ++ s.issued } = .next (s.pushAll bs) := by
  induction bs generalizing s with
  | nil => simp [run, fpushn, State.pushAll_nil]
  | cons b bs ih =>
    have hstep : step { s with issued := fpushn (b :: bs) ++ s.issued } =
        exec (.fpush b) { s with issued := fpushn bs ++ s.issued } :=
      step_of_decode_ok rfl (decodeEncodeAgree (.fpush b) rfl)
    calc run (bs.length + 1) { s with issued := fpushn (b :: bs) ++ s.issued }
      _ = run bs.length { s.pushAll [b] with issued := fpushn bs ++ s.issued } := by
        rw [run, hstep, exec_fpush_pushAll]
        rfl
      _ = .next ((s.pushAll [b]).pushAll bs) := ih (s.pushAll [b])
      _ = .next (s.pushAll (b :: bs)) := by rw [← State.pushAll_append, List.singleton_append]

theorem deliverChunk_eq {s : State} (h : s.issued = []) (bs : Bytes) :
    deliverChunk bs s = .next (s.pushAll bs) := by
  rw [deliverChunk, ← run_fpushn, h, List.nil_append, List.append_nil]

/-- Only the bytes delivered matter, not their chunks. -/
theorem deliver_eq {s : State} (h : s.issued = []) (chunks : List Bytes) :
    deliver chunks s = .next (s.pushAll chunks.flatten) := by
  induction chunks generalizing s with
  | nil => simp [deliver, State.pushAll_nil]
  | cons c cs ih =>
    calc deliver (c :: cs) s
      _ = deliver cs (s.pushAll c) := by rw [deliver, deliverChunk_eq h, andThen]
      _ = .next ((s.pushAll c).pushAll cs.flatten) := ih (s := s.pushAll c) h
      _ = .next (s.pushAll (c :: cs).flatten) := by rw [← State.pushAll_append, List.flatten_cons]

/-- Settles O26: either delivery is the stream of all bytes. -/
theorem chunkingDoesNotMatter : Obligations.ChunkingDoesNotMatter := by
  intro chunks s h
  refine ⟨?_, _, deliver_eq h chunks, h⟩
  rw [deliver_eq h, deliver_eq h, List.flatten_singleton]

/-- SeekPreamble stays as it is over bytes other than FF (R101). -/
theorem Framer.pushAll_seek_noise {f : Framer} (hp : f.phase = .seekPreamble) {noise : Bytes}
    (h : 0xFF#8 ∉ noise) : f.pushAll noise = (f, List.replicate noise.length none) := by
  induction noise with
  | nil => rfl
  | cons b bs ih =>
    obtain ⟨hb, hbs⟩ := List.ne_and_not_mem_of_not_mem_cons h
    have hpush : f.push b = (f, none) := by rw [push_seek_eq hp, if_neg hb.symm]
    rw [pushAll, hpush, ih hbs]
    rfl

/-- Settles O10: the transition of SeekPreamble, and a stream of its discarded bytes. -/
theorem seekPreambleDiscardsUntilPreamble : Obligations.SeekPreambleDiscardsUntilPreamble := by
  constructor
  · exact fun s b hp => exec_fpush_of_push_none (Framer.push_seek_eq hp)
  · intro s noise hp hissued hnoise
    have hall : s.framer.pushAll [noise].flatten = (s.framer, List.replicate noise.length none) := by
      rw [List.flatten_singleton, Framer.pushAll_seek_noise hp hnoise]
    refine ⟨_, _, deliver_eq hissued [noise], ?_, rfl, ?_⟩
    · rw [State.pushAll, hall]
    · rw [hall, List.map_replicate]
      rfl

/-! ### What a stream leaves and emits -/

/-- The stream leads the framer to `g` and emits these frames. -/
def Framer.Takes (f : Framer) (bs : Bytes) (g : Framer) (raws : List Bytes) : Prop :=
  (f.pushAll bs).1 = g ∧ (f.pushAll bs).2.reduceOption = raws

section
variable {f g h : Framer} {b : Byte} {xs ys : Bytes} {raws raws' : List Bytes}

theorem Framer.takes_nil (f : Framer) : f.Takes [] f [] := ⟨rfl, rfl⟩

theorem Framer.Takes.append (hf : f.Takes xs g raws) (hg : g.Takes ys h raws') :
    f.Takes (xs ++ ys) h (raws ++ raws') := by
  obtain ⟨rfl, rfl⟩ := hf
  obtain ⟨rfl, rfl⟩ := hg
  simp [Takes, pushAll_append, List.reduceOption_append]

theorem Framer.takes_of_push {out : Option Bytes} (hpush : f.push b = (g, out)) :
    f.Takes [b] g out.toList := by
  cases out <;> simp [Takes, pushAll, hpush]

/-- A byte that emits nothing, before a stream. -/
theorem Framer.Takes.cons (hpush : f.push b = (g, none)) (hg : g.Takes ys h raws) :
    f.Takes (b :: ys) h raws :=
  (takes_of_push hpush).append hg

/-- Address bytes and data bytes are taken alike, as many as `rem` says. -/
theorem Framer.takes_countDown {p next : Phase}
    (hpush : ∀ (f : Framer) (b : Byte), f.phase = p → f.push b = (f.countDown next b, none))
    (hp : f.phase = p) (hne : xs ≠ []) (hlen : xs.length = f.rem) :
    f.Takes xs { f with phase := next, rem := 0, body := f.body ++ xs } [] := by
  induction xs generalizing f with
  | nil => exact absurd rfl hne
  | cons b bs ih =>
    rw [List.length_cons] at hlen
    by_cases hbs : bs = []
    · subst hbs
      have hlast := f.countDown_last (b := b) next hlen.symm
      exact takes_of_push (out := none) ((hpush f b hp).trans (by rw [hlast]))
    · have hpos : 0 < bs.length := List.length_pos_of_ne_nil hbs
      have hmore := f.countDown_more (b := b) next (by omega)
      refine .cons (hpush f b hp) ?_
      rw [hmore]
      have hrest : bs.length = f.rem - 1 := by omega
      simpa using ih (f := { f with rem := f.rem - 1, body := f.body ++ [b] }) hp hbs hrest

theorem Framer.takes_address {addr : Bytes} (hp : f.phase = .addressPhase) (hne : addr ≠ [])
    (hlen : addr.length = f.rem) :
    f.Takes addr { f with phase := .commandPhase, rem := 0, body := f.body ++ addr } [] :=
  takes_countDown (fun _ _ => push_address_countDown) hp hne hlen

theorem Framer.takes_command {cmd : Bytes} (hp : f.phase = .commandPhase) (hext : f.ext = false)
    (hcmd : CommandWire cmd) :
    f.Takes cmd { f with phase := .counterPhase, body := f.body ++ cmd } [] := by
  obtain ⟨c0, hc0, rfl⟩ | ⟨c1, rfl⟩ := hcmd
  · have hlast := push_command_last hp (b := c0) (.inr hc0)
    rw [← hext] at hlast
    exact takes_of_push hlast
  · have hfirst := push_command_extension hp hext
    have hlast := push_command_last (f := { f with ext := true, body := f.body ++ [0xFE#8] })
      (b := c1) hp (.inl rfl)
    rw [← hext] at hlast
    simpa using Takes.cons hfirst (takes_of_push hlast)

/-- The counter and as many data bytes as it says, none included (R106). -/
theorem Framer.takes_counted {n : Byte} {data : Bytes} (hp : f.phase = .counterPhase)
    (hlen : data.length = n.toNat) :
    f.Takes (n :: data) { f with phase := .checksumPhase, rem := 0, body := f.body ++ n :: data } [] := by
  refine .cons (push_counter_eq hp) ?_
  by_cases hdata : data = []
  · subst hdata
    rw [← hlen]
    exact takes_nil _
  · have hn : n.toNat ≠ 0 := by
      rw [← hlen]
      exact (List.length_pos_of_ne_nil hdata).ne'
    rw [if_neg hn]
    simpa using takes_countDown (f := { f with phase := .dataPhase, rem := n.toNat, body := f.body ++ [n] })
      (fun _ _ => push_data_countDown) rfl hdata hlen

/-- Any last byte completes the frame (R108). -/
theorem Framer.takes_checksum {raw : Bytes} (hp : f.phase = .checksumPhase) (hraw : f.completed b = raw) :
    f.Takes [b] Framer.reset [raw] := by
  subst hraw
  exact takes_of_push (push_checksum hp b)

end

/-- The frames the host observes of a stream are those the framer emits, with one event each. -/
theorem framesOf_map_pushObservation (outs : List (Option Bytes)) :
    framesOf (outs.map pushObservation) = outs.reduceOption := by
  induction outs with
  | nil => rfl
  | cons out outs ih => cases out <;> simpa [framesOf, pushObservation, List.reduceOption] using ih

theorem eventsOf_map_pushObservation (outs : List (Option Bytes)) :
    eventsOf (outs.map pushObservation) = outs.reduceOption.length := by
  induction outs with
  | nil => rfl
  | cons out outs ih => cases out <;> simpa [eventsOf, pushObservation, List.reduceOption] using ih

theorem deliver_of_takes {s : State} {g : Framer} {chunks raws : List Bytes} (hissued : s.issued = [])
    (h : s.framer.Takes chunks.flatten g raws) :
    ∃ t obs, deliver chunks s = .next t ∧ t.framer = g ∧ t.issued = [] ∧
      t.observed = s.observed ++ obs ∧ framesOf obs = raws ∧ eventsOf obs = raws.length := by
  obtain ⟨rfl, rfl⟩ := h
  exact ⟨_, _, deliver_eq hissued chunks, rfl, hissued, rfl, framesOf_map_pushObservation _,
    eventsOf_map_pushObservation _⟩

/-! ### The search for a frame (R101 to R103) -/

/-- Between two frames: `k` preamble bytes are counted, and nothing else is recorded. -/
def Framer.Searching (f : Framer) (k : Nat) : Prop :=
  f.phase = (if k = 0 then .seekPreamble else .countPreamble) ∧ f.pre = k ∧ f.rem = 0 ∧
    f.ext = false ∧ f.body = []

theorem Framer.searching_zero_iff {f : Framer} : f.Searching 0 ↔ f.AtReset := Iff.rfl

section
variable {f : Framer} {k : Nat}

theorem Framer.Searching.counting (h : f.Searching k) (hk : k ≠ 0) : f.phase = .countPreamble := by
  simpa [hk] using h.1

theorem Framer.Searching.push_preamble (h : f.Searching k) :
    ∃ g, f.push 0xFF#8 = (g, none) ∧ g.Searching (k + 1) := by
  by_cases hk : k = 0
  · subst hk
    obtain ⟨hp, hpre, hrem, hext, hbody⟩ := h
    exact ⟨_, push_seek_eq hp, rfl, rfl, hrem, hext, hbody⟩
  · have hp := h.counting hk
    obtain ⟨-, hpre, hrem, hext, hbody⟩ := h
    exact ⟨_, push_count_preamble hp, by simp [hp], by simp [hpre], hrem, hext, hbody⟩

theorem Framer.Searching.push_discard {b : Byte} (h : f.Searching k) (hb : b ≠ 0xFF#8)
    (hno : ¬(2 ≤ k ∧ framerLimiter b = true)) : ∃ g, f.push b = (g, none) ∧ g.Searching 0 := by
  by_cases hk : k = 0
  · subst hk
    exact ⟨f, by rw [push_seek_eq h.1, if_neg hb], h⟩
  · have hpre : f.pre = k := h.2.1
    rw [← hpre] at hno
    exact ⟨_, push_count_discard (h.counting hk) hb hno, searching_zero_iff.2 reset_atReset⟩

theorem Framer.Searching.takes_preamble (h : f.Searching k) (n : Nat) :
    ∃ g, f.Takes (List.replicate n 0xFF#8) g [] ∧ g.Searching (k + n) := by
  induction n generalizing f k with
  | zero => exact ⟨f, takes_nil f, h⟩
  | succ n ih =>
    obtain ⟨g, hpush, hg⟩ := h.push_preamble
    obtain ⟨e, htakes, he⟩ := ih hg
    exact ⟨e, .cons hpush htakes, by rwa [Nat.add_right_comm] at he⟩

theorem Framer.Searching.push_limiter {lim : Byte} (h : f.Searching k) (hk : 2 ≤ k)
    (hlim : framerLimiter lim = true) :
    f.push lim = (⟨.addressPhase, k, limiterFormat lim, addressLength (limiterFormat lim), false, [lim]⟩,
      none) := by
  have hp := h.counting (by omega)
  obtain ⟨-, rfl, -, hext, -⟩ := h
  rw [push_count_limiter hp hk hlim, hext]

/-- A frame of R71's form is emitted with its own bytes, and the framer is reset. -/
theorem Framer.Searching.takes_framable {raw : Bytes} (h : f.Searching 0) (hraw : Framable raw) :
    f.Takes raw Framer.reset [raw] := by
  obtain ⟨pre, lim, addr, cmd, n, data, chk, hpre, hlim, haddr, hcmd, hdata, rfl⟩ := hraw
  obtain ⟨g, htakes, hg⟩ := h.takes_preamble pre
  rw [Nat.zero_add] at hg
  have hne : addr ≠ [] := by
    rintro rfl
    cases hfmt : limiterFormat lim <;> simp [hfmt, addressLength] at haddr
  refine htakes.append (.cons (hg.push_limiter hpre hlim) ?_)
  refine (takes_address rfl hne haddr).append ((takes_command rfl rfl hcmd).append ?_)
  rw [← List.cons_append]
  refine (takes_counted rfl hdata).append (takes_checksum rfl ?_)
  simp [completed, preambleRun, preambleSymbol]

theorem Framer.Searching.takes_frames {frames : List Bytes} (h : f.Searching 0)
    (hframes : ∀ raw ∈ frames, Framable raw) :
    ∃ g, f.Takes frames.flatten g frames ∧ g.Searching 0 := by
  induction frames generalizing f with
  | nil => exact ⟨f, takes_nil f, h⟩
  | cons raw frames ih =>
    obtain ⟨hraw, hrest⟩ := List.forall_mem_cons.mp hframes
    obtain ⟨g, htakes, hg⟩ := ih (searching_zero_iff.2 reset_atReset) hrest
    exact ⟨g, (h.takes_framable hraw).append htakes, hg⟩

end

/-- Settles O27: frame by frame from `S0`, whatever the chunks. -/
theorem backToBackFramesRecovered : Obligations.BackToBackFramesRecovered := by
  intro frames chunks s hreset hissued hframes hflatten
  obtain ⟨g, htakes, hg⟩ := Framer.Searching.takes_frames (Framer.searching_zero_iff.2 hreset) hframes
  rw [← hflatten] at htakes
  obtain ⟨t, obs, hdeliver, rfl, hrest⟩ := deliver_of_takes hissued htakes
  exact ⟨t, obs, hdeliver, Framer.searching_zero_iff.1 hg, hrest⟩

/-! ### Noise (R115) -/

/-- Nowhere in the sequence do two FF and a framer limiter stand in a row. -/
def StartsNoFrame (xs : Bytes) : Prop :=
  ∀ (before after : Bytes) (lim : Byte), framerLimiter lim = true →
    xs ≠ before ++ [0xFF#8, 0xFF#8, lim] ++ after

theorem StartsNoFrame.of_append {xs ys : Bytes} (h : StartsNoFrame (xs ++ ys)) : StartsNoFrame ys := by
  rintro before after lim hlim rfl
  exact h (xs ++ before) after lim hlim (by simp)

/-- After two or more FF, the next byte of such a sequence is no framer limiter. -/
theorem StartsNoFrame.not_limiter {k : Nat} {b : Byte} {bs : Bytes}
    (h : StartsNoFrame (List.replicate k 0xFF#8 ++ b :: bs)) : ¬(2 ≤ k ∧ framerLimiter b = true) := by
  rintro ⟨hk, hlim⟩
  obtain ⟨j, rfl⟩ := Nat.exists_eq_add_of_le' hk
  exact h (List.replicate j 0xFF#8) bs b hlim (by simp [List.replicate_add])

/-- With `k` preamble bytes counted, noise that starts no frame after them is searched through; where its last byte is not FF,
the framer is back in `S0`. -/
theorem Framer.Searching.takes_noise {f : Framer} {k : Nat} {noise : Bytes} (h : f.Searching k)
    (hnone : StartsNoFrame (List.replicate k 0xFF#8 ++ noise))
    (hlast : (List.replicate k 0xFF#8 ++ noise).getLast? ≠ some 0xFF#8) :
    ∃ g, f.Takes noise g [] ∧ g.Searching 0 := by
  induction noise generalizing f k with
  | nil =>
    have hk : k = 0 := by
      by_contra hk
      simp [List.getLast?_replicate, hk] at hlast
    subst hk
    exact ⟨f, takes_nil f, h⟩
  | cons b bs ih =>
    by_cases hb : b = 0xFF#8
    · subst hb
      have hrun : List.replicate k 0xFF#8 ++ 0xFF#8 :: bs = List.replicate (k + 1) 0xFF#8 ++ bs := by
        simp [List.replicate_add]
      rw [hrun] at hnone hlast
      obtain ⟨g, hpush, hg⟩ := h.push_preamble
      obtain ⟨e, htakes, he⟩ := ih hg hnone hlast
      exact ⟨e, .cons hpush htakes, he⟩
    · obtain ⟨g, hpush, hg⟩ := h.push_discard hb hnone.not_limiter
      have hrest : StartsNoFrame bs := (StartsNoFrame.of_append hnone).of_append (xs := [b])
      have hlast' : bs.getLast? ≠ some 0xFF#8 := by
        intro hbs
        simp [List.getLast?_cons, hbs] at hlast
      obtain ⟨e, htakes, he⟩ := ih hg hrest hlast'
      exact ⟨e, .cons hpush htakes, he⟩

/-- Settles O28: the noise leads back to `S0` and emits nothing, and the frame after it is recovered. -/
theorem resyncOverNoise : Obligations.ResyncOverNoise := by
  intro noise raw s hreset hissued hnone hlast hraw
  obtain ⟨g, hnoise, hg⟩ := Framer.Searching.takes_noise (Framer.searching_zero_iff.2 hreset) hnone hlast
  have hall : s.framer.Takes [noise ++ raw].flatten Framer.reset [raw] := by
    rw [List.flatten_singleton]
    exact hnoise.append (hg.takes_framable hraw)
  obtain ⟨t, obs, hdeliver, hframer, -, hrest⟩ := deliver_of_takes hissued hall
  exact ⟨t, obs, hdeliver, hframer ▸ Framer.reset_atReset, hrest⟩

end Sys2Proof.Machine

/-!
The proofs of the statements about the FrameCodec (41_frame_codec.md): what DESER makes of a raw frame, of any and of an emitted one
(R130 to R144), what SER writes and what becomes of it (R145 to R154), and what ERRTXT answers (R156).
-/

namespace Sys2Proof.Machine

/-! ### What the FrameCodec's operations reply -/

/-- Where an operation replies one answer, it replies another exactly if the two are the same. -/
theorem Replies.iff_eq {i : Instr} {s : State} {a b : Answer} (h : Replies i s a) :
    Replies i s b ↔ a = b :=
  ⟨h.answer_unique, fun heq => heq ▸ h⟩

theorem replies_ser (q : Request) (s : State) :
    Replies (.ser q) s (answerWith .bytes (serialize true q)) := by
  rw [Replies, exec, execSer, State.reply_eq_observe, State.observe, Config.includeRequestPayload]

theorem replies_errtxt (c : Byte) (s : State) : Replies (.errtxt c) s (.result (.text (errorText c))) :=
  rfl

section
variable {s : State} {raw xs : Bytes} {r : Response} {q : Request} {e : OpError}

theorem replies_deser_response :
    Replies (.deser (some raw)) s (.result (.response r)) ↔ deserialize raw = .ok r := by
  rw [(replies_deser (some raw) s).iff_eq, answerWith_eq_result]
  simp [rawFrame]

theorem replies_deser_error : Replies (.deser (some raw)) s (.error e) ↔ deserialize raw = .error e := by
  rw [(replies_deser (some raw) s).iff_eq, answerWith_eq_error, rawFrame]

theorem replies_ser_bytes : Replies (.ser q) s (.result (.bytes xs)) ↔ serialize true q = .ok xs := by
  rw [(replies_ser q s).iff_eq, answerWith_eq_result]
  simp

theorem replies_ser_error : Replies (.ser q) s (.error e) ↔ serialize true q = .error e := by
  rw [(replies_ser q s).iff_eq, answerWith_eq_error]

end

/-! ### ERRTXT (R156) -/

theorem errorText_of_mapped {c : Byte} {text : Text} (h : Config.errorTable c = .mapped text) :
    errorText c = text := by
  simp [errorText, h]

theorem errorText_of_unmapped {c : Byte} (h : Config.errorTable c = .unmapped) :
    errorText c = Config.unknownErrorText := by
  simp [errorText, h]

/-- Settles O42: ERRTXT replies the text of its code, which is the table's or the generic one. -/
theorem errtxtNeverFails : Obligations.ErrtxtNeverFails := by
  intro s c
  constructor
  · intro text h
    rw [← errorText_of_mapped h]
    exact replies_errtxt c s
  · intro h
    rw [← errorText_of_unmapped h]
    exact replies_errtxt c s

/-! ### The checksum of a raw frame (R130 to R133) -/

theorem xorAll_eq_xorFold (xs : Bytes) : xorAll xs = xorFold xs := by
  simp [xorAll, foldl_xor_eq]

/-- A sequence followed by its own fold folds to 0 (R79). -/
theorem xorAll_append_fold (xs : Bytes) : xorAll (xs ++ [xorAll xs]) = 0#8 := by
  simp [xorAll_eq_xorFold, xorFold]

theorem deserialize_run_append (pre : Nat) {rest : Bytes} (h : rest.head? ≠ some 0xFF#8) :
    deserialize (List.replicate pre 0xFF#8 ++ rest) =
      if rest.length < 2 then .error (.malformedFrame .truncated)
      else if xorFold rest.dropLast ≠ rest.getLastD 0#8 then .error .integrity
      else readChecked pre rest.dropLast := by
  have hcount : preambleCount (List.replicate pre 0xFF#8 ++ rest) = pre :=
    preambleCount_run_append pre rest h
  have hdrop : (List.replicate pre 0xFF#8 ++ rest).drop pre = rest := by simp
  simp only [deserialize, hcount, hdrop]

/-- A frame too short to have a checksum (R132, D11). -/
theorem deserialize_short (pre : Nat) {rest : Bytes} (h : rest.head? ≠ some 0xFF#8)
    (hshort : rest.length < 2) :
    deserialize (List.replicate pre 0xFF#8 ++ rest) = .error (.malformedFrame .truncated) := by
  rw [deserialize_run_append pre h, if_pos hshort]

/-- With at least two bytes after the preamble run, the checksum decides before any field is read (R133). -/
theorem deserialize_summed (pre : Nat) {lim : Byte} (rest : Bytes) (chk : Byte) (h : lim ≠ 0xFF#8) :
    deserialize (List.replicate pre 0xFF#8 ++ lim :: rest ++ [chk]) =
      if xorAll (lim :: rest) = chk then readChecked pre (lim :: rest) else .error .integrity := by
  have hlen : ¬(lim :: rest ++ [chk]).length < 2 := by simp
  rw [List.append_assoc, deserialize_run_append pre (by simpa using h), if_neg hlen, List.dropLast_concat,
    List.getLastD_concat, xorAll_eq_xorFold]
  exact ite_not _ _ _

theorem exists_first_and_last {xs : Bytes} (h : 2 ≤ xs.length) :
    ∃ first middle last, xs = first :: middle ++ [last] := by
  match xs with
  | first :: tail =>
    obtain rfl | ⟨middle, last, rfl⟩ := List.eq_nil_or_concat tail
    · simp at h
    · exact ⟨first, middle, last, by simp⟩

theorem readChecked_ok {pre : Nat} {lim : Byte} {rest : Bytes} {r : Response}
    (h : readChecked pre (lim :: rest) = .ok r) :
    knownLimiter lim = true ∧ readFields pre lim rest = .ok r := by
  simp only [readChecked] at h
  split at h
  · exact ⟨‹_›, h⟩
  · cases h

/-- DESER succeeds only on a preamble run, a recognized limiter with the fields behind it, and their fold. -/
theorem deserialize_ok {raw : Bytes} {r : Response} (h : deserialize raw = .ok r) :
    ∃ pre lim rest, raw = List.replicate pre 0xFF#8 ++ lim :: rest ++ [xorAll (lim :: rest)] ∧
      knownLimiter lim = true ∧ readFields pre lim rest = .ok r := by
  obtain ⟨pre, tail, rfl, hhead⟩ :
      ∃ pre tail, raw = List.replicate pre 0xFF#8 ++ tail ∧ tail.head? ≠ some 0xFF#8 :=
    ⟨_, _, preambleCount_spec raw⟩
  have hlen : 2 ≤ tail.length := by
    by_contra hshort
    cases (deserialize_short pre hhead (by omega)).symm.trans h
  obtain ⟨lim, rest, chk, rfl⟩ := exists_first_and_last hlen
  rw [← List.append_assoc] at h ⊢
  rw [deserialize_summed pre rest chk (by simpa using hhead)] at h
  split at h
  · rename_i hsum
    exact ⟨pre, lim, rest, by rw [hsum], readChecked_ok h⟩
  · cases h

theorem readChecked_ne_integrity {pre : Nat} {body : Bytes} :
    readChecked pre body ≠ .error .integrity := by
  intro h
  unfold readChecked at h
  split at h
  · cases h
  · split at h
    · obtain he | he := readFields_error h <;> cases he
    · cases h

/-- Settles O36: nothing but the comparison raises Integrity, and a frame that deserializes ends in its fold. -/
theorem deserChecksumFirst : Obligations.DeserChecksumFirst := by
  constructor
  · intro s pre body chk hne hhead
    obtain ⟨lim, rest, rfl⟩ := List.exists_cons_of_ne_nil hne
    rw [replies_deser_error, deserialize_summed pre rest chk (by simpa using hhead)]
    split
    · rename_i hsum
      exact iff_of_false readChecked_ne_integrity (not_not_intro hsum)
    · rename_i hsum
      exact iff_of_true rfl hsum
  · intro s front good bad r h hbad
    rw [replies_deser_response] at h
    obtain ⟨pre, lim, rest, hraw, hlim, -⟩ := deserialize_ok h
    obtain ⟨rfl, hgood⟩ := List.append_inj' hraw rfl
    obtain rfl : good = xorAll (lim :: rest) := by simpa using hgood
    rw [replies_deser_error, deserialize_summed pre rest bad (knownLimiter_ne_preamble hlim),
      if_neg hbad.symm]

/-! ### The fields of a raw frame (R134 to R143) -/

/-- A command field and its bytes on the wire (R77). -/
def CommandWritten (command : CommandField) (cmd : Bytes) : Prop :=
  (∃ c0, c0 ≠ 0xFE#8 ∧ cmd = [c0] ∧ command = .single c0) ∨
    ∃ c1, cmd = [0xFE#8, c1] ∧ command = .extended c1

/-- The Response of a frame's fields (R36, R136 to R142). -/
def responseOf (preamble : Nat) (lim : Byte) (address : Bytes) (command : CommandField)
    (rc0 rc1 : Byte) (data : Bytes) : Response where
  preamble := preamble
  fmt := limiterFormat lim
  isBatchMode := isBatchLimiter lim
  limiter := lim
  address := address
  command := command
  commandNumber := commandNumber command
  rc0 := rc0
  rc1 := rc1
  responseCode := responseCode rc0 rc1
  communicationError := errorText rc0
  data := data

theorem CommandWire.exists_written {cmd : Bytes} (h : CommandWire cmd) :
    ∃ command, CommandWritten command cmd := by
  obtain ⟨c0, hc0, rfl⟩ | ⟨c1, rfl⟩ := h
  · exact ⟨.single c0, .inl ⟨c0, hc0, rfl, rfl⟩⟩
  · exact ⟨.extended c1, .inr ⟨c1, rfl, rfl⟩⟩

theorem readField_short {k : Nat} {xs : Bytes} (h : xs.length < k) :
    readField k xs = .error (.malformedFrame .truncated) := by
  simp [readField, h]

/-- A counter that does not count the bytes after it, or counts less than a response code (R135, D12). -/
theorem readCounted_wrong {n : Byte} {tail : Bytes} (h : n.toNat ≠ tail.length ∨ n.toNat < 2) :
    readCounted (n :: tail) = .error (.malformedFrame .count) := by
  simp only [readCounted]
  split
  · rfl
  · rename_i hcount
    split
    · simp only [List.length_cons] at h hcount
      omega
    · rfl

section
variable {pre : Nat} {lim n rc0 rc1 : Byte} {addr cmd tail rest data : Bytes} {command : CommandField}

theorem CommandWritten.readCommand (h : CommandWritten command cmd) :
    readCommand (cmd ++ rest) = .ok (command, rest) := by
  obtain ⟨c0, hc0, rfl, rfl⟩ | ⟨c1, rfl, rfl⟩ := h
  · exact readCommand_single hc0
  · exact readCommand_extended

theorem readFields_short (h : rest.length < addressLength (limiterFormat lim)) :
    readFields pre lim rest = .error (.malformedFrame .truncated) := by
  simp only [readFields, readField_short h]

/-- Behind an address of the limiter's length, the command is read next. -/
theorem readFields_truncated_of_readCommand (haddr : addr.length = addressLength (limiterFormat lim))
    (h : readCommand rest = .error (.malformedFrame .truncated)) :
    readFields pre lim (addr ++ rest) = .error (.malformedFrame .truncated) := by
  simp only [readFields, readField_append haddr, h]

/-- Behind an address and a command, the counter decides. -/
theorem readFields_append (haddr : addr.length = addressLength (limiterFormat lim))
    (hcmd : CommandWritten command cmd) :
    readFields pre lim (addr ++ (cmd ++ tail)) =
      (readCounted tail).map fun (rc0, rc1, data) => responseOf pre lim addr command rc0 rc1 data := by
  simp only [readFields, readField_append haddr, hcmd.readCommand]
  cases readCounted tail <;> rfl

theorem readFields_ok {r : Response} (h : readFields pre lim rest = .ok r) :
    ∃ addr cmd command n rc0 rc1 data, rest = addr ++ (cmd ++ n :: rc0 :: rc1 :: data) ∧
      addr.length = addressLength (limiterFormat lim) ∧ CommandWritten command cmd ∧
      n.toNat = 2 + data.length ∧ r = responseOf pre lim addr command rc0 rc1 data := by
  unfold readFields at h
  split at h
  · cases h
  · rename_i addr rest' hfield
    obtain ⟨rfl, haddr⟩ := readField_ok hfield
    split at h
    · cases h
    · rename_i command tail hcommand
      obtain ⟨cmd, rfl, hcmd⟩ : ∃ cmd, rest' = cmd ++ tail ∧ CommandWritten command cmd := by
        obtain ⟨c0, hc0, rfl, rfl⟩ | ⟨c1, rfl, rfl⟩ := readCommand_ok hcommand
        · exact ⟨[c0], rfl, .inl ⟨c0, hc0, rfl, rfl⟩⟩
        · exact ⟨[0xFE#8, c1], rfl, .inr ⟨c1, rfl, rfl⟩⟩
      split at h
      · cases h
      · rename_i rc0 rc1 data hcounted
        obtain ⟨n, rfl, hn⟩ := readCounted_ok hcounted
        cases h
        exact ⟨addr, cmd, command, n, rc0, rc1, data, rfl, haddr, hcmd, hn, rfl⟩

/-- A frame that ends in its fold is checked for its limiter and read (R136). -/
theorem deserialize_consistent (hlim : lim ≠ 0xFF#8) :
    deserialize (List.replicate pre 0xFF#8 ++ lim :: rest ++ [xorAll (lim :: rest)]) =
      if knownLimiter lim = true then readFields pre lim rest else .error (.malformedFrame .limiter) := by
  rw [deserialize_summed pre rest _ hlim, if_pos rfl, readChecked]

variable (hlim : knownLimiter lim = true)
include hlim

theorem deserialize_known :
    deserialize (List.replicate pre 0xFF#8 ++ lim :: rest ++ [xorAll (lim :: rest)]) =
      readFields pre lim rest := by
  rw [deserialize_consistent (knownLimiter_ne_preamble hlim), if_pos hlim]

variable (haddr : addr.length = addressLength (limiterFormat lim))
include haddr

theorem deserialize_wrong_counter (hcmd : CommandWire cmd) (hn : n.toNat ≠ tail.length ∨ n.toNat < 2) :
    deserialize (List.replicate pre 0xFF#8 ++ lim :: (addr ++ (cmd ++ n :: tail)) ++
      [xorAll (lim :: (addr ++ (cmd ++ n :: tail)))]) = .error (.malformedFrame .count) := by
  obtain ⟨command, hwritten⟩ := hcmd.exists_written
  rw [deserialize_known hlim, readFields_append haddr hwritten, readCounted_wrong hn]
  rfl

theorem deserialize_response (hcmd : CommandWritten command cmd) (hn : n.toNat = 2 + data.length) :
    deserialize (List.replicate pre 0xFF#8 ++ lim :: (addr ++ (cmd ++ n :: rc0 :: rc1 :: data)) ++
      [xorAll (lim :: (addr ++ (cmd ++ n :: rc0 :: rc1 :: data)))]) =
      .ok (responseOf pre lim addr command rc0 rc1 data) := by
  rw [deserialize_known hlim, readFields_append haddr hcmd, readCounted_mk hn]
  rfl

end

/-- Settles O37: a frame that is too short has no checksum, an unknown limiter stops the reading, a field that ends at the checksum
is truncated, and a complete command leaves the counter to decide. -/
theorem deserFieldErrors : Obligations.DeserFieldErrors := by
  refine ⟨?short, ?limiter, ?truncated, ?count⟩
  case short =>
    intro s pre rest hlen hhead
    exact replies_deser_error.2 (deserialize_short pre hhead hlen)
  case limiter =>
    intro s pre lim rest hne hlim
    rw [replies_deser_error, deserialize_consistent hne, if_neg (by simp [hlim])]
  case truncated =>
    intro s pre lim rest hlim hrest
    rw [replies_deser_error, deserialize_known hlim]
    obtain hshort | ⟨addr, haddr, rfl⟩ | ⟨addr, cmd, haddr, hcmd, rfl⟩ := hrest
    · obtain hlt | heq := hshort.lt_or_eq
      · exact readFields_short hlt
      · simpa using readFields_truncated_of_readCommand (rest := []) heq rfl
    · exact readFields_truncated_of_readCommand haddr rfl
    · obtain ⟨command, hwritten⟩ := hcmd.exists_written
      simpa [readCounted, Except.map] using readFields_append (tail := []) haddr hwritten
  case count =>
    intro s pre lim addr cmd n tail hlim haddr hcmd hn
    exact replies_deser_error.2 (deserialize_wrong_counter hlim haddr hcmd hn)

/-- The six limiters, one by one (R72). -/
theorem knownLimiter_cases (lim : Byte) : knownLimiter lim = true ↔
    lim = 0x01#8 ∨ lim = 0x81#8 ∨ lim = 0x06#8 ∨ lim = 0x86#8 ∨ lim = 0x02#8 ∨ lim = 0x82#8 := by
  simp [knownLimiter, or_assoc]

theorem addressLength_limiterFormat (lim : Byte) :
    addressLength (limiterFormat lim) = if lim.getLsbD 7 then 5 else 1 := by
  unfold limiterFormat
  split <;> rfl

/-- The two bytes are read least significant first (D3). -/
theorem responseCode_eq (rc0 rc1 : Byte) :
    responseCode rc0 rc1 = BitVec.ofNat 32 (rc0.toNat + 256 * rc1.toNat) := by
  simp [responseCode, wireOrder, Config.primByteOrder, fromBytes, leValue]

theorem isBatchLimiter_eq (lim : Byte) : isBatchLimiter lim = decide (lim = 0x01#8 ∨ lim = 0x81#8) := by
  rw [Bool.eq_iff_iff, isBatchLimiter_iff, decide_eq_true_iff]

/-- Settles O34: the frame is consistent and complete, and its Response is the one of its fields. -/
theorem deserReadsAResponse : Obligations.DeserReadsAResponse := by
  intro s pre lim addr cmd n rc0 rc1 data command hlim haddr hcmd hn
  have hread := deserialize_response (pre := pre) (rc0 := rc0) (rc1 := rc1) ((knownLimiter_cases lim).2 hlim)
    (haddr.trans (addressLength_limiterFormat lim).symm) hcmd hn
  rw [← isBatchLimiter_eq, ← responseCode_eq]
  refine replies_deser_response.2 (Eq.trans (congrArg deserialize ?_) hread)
  simp

/-- Settles O35: what DESER accepts is a run, a recognized limiter, the fields and the fold, and the Response holds these. -/
theorem deserAcceptsOnlyResponses : Obligations.DeserAcceptsOnlyResponses := by
  intro s raw r h
  obtain ⟨pre, lim, rest, rfl, hlim, hfields⟩ := deserialize_ok (replies_deser_response.1 h)
  obtain ⟨addr, cmd, command, n, rc0, rc1, data, rfl, haddr, hcmd, hn, rfl⟩ := readFields_ok hfields
  exact ⟨cmd, n, hlim, rfl, haddr, hcmd, hn, by simp [responseOf]⟩

/-! ### DESER of an emitted frame (R144) -/

/-- A frame is the answer only of the FPUSH that completes it (R108). -/
theorem completed_of_exec_fpush {s t : State} {b : Byte} {raw : Bytes} {ready : Bool}
    (h : exec (.fpush b) s = .next t)
    (ho : t.observed = s.observed ++ [{ answer := .result (.frame raw), frameReady := ready }]) :
    s.framer.phase = .checksumPhase ∧ raw = List.replicate s.framer.pre 0xFF#8 ++ s.framer.body ++ [b] := by
  obtain ⟨hphase, hframe⟩ := frameReadyExactlyAtTheChecksum _ s t _ h ho
  have hp := (hphase.1 (hframe.2 ⟨raw, rfl⟩)).2
  obtain ⟨f, -, hexec⟩ := checksumByteEmitsTheFrame s b hp
  cases hexec.symm.trans h
  have hanswer := List.append_cancel_left ho
  simp only [List.cons.injEq, Observation.mk.injEq, Answer.result.injEq, Result.frame.injEq] at hanswer
  obtain ⟨⟨rfl, -⟩, -⟩ := hanswer
  exact ⟨hp, rfl⟩

/-- Settles O38: the invariant names the parts of an emitted frame, and its limiter is a recognized one. -/
theorem deserOfEmittedFrames : Obligations.DeserOfEmittedFrames := by
  intro s t b raw ready hinv h ho
  obtain ⟨hp, rfl⟩ := completed_of_exec_fpush h ho
  simp only [Framer.Inv, hp] at hinv
  obtain ⟨-, -, -, lim, addr, cmd, n, data, ⟨hframer, hfmt⟩, haddr, hcmd, hbody, hdata⟩ := hinv
  rw [← hfmt] at haddr
  have hlim := framerLimiter_known hframer
  refine ⟨lim, addr, cmd, n, data, hbody, haddr, hcmd, hdata, fun u => ?_⟩
  rw [hbody]
  refine ⟨fun hsum => ?_, ?_, ?_⟩
  · rw [replies_deser_error, deserialize_summed _ _ _ (knownLimiter_ne_preamble hlim), if_neg hsum]
  · rintro rfl hn
    exact replies_deser_error.2 (deserialize_wrong_counter hlim haddr hcmd (.inr hn))
  · rintro rfl hn
    obtain ⟨command, hwritten⟩ := hcmd.exists_written
    match data with
    | rc0 :: rc1 :: data =>
      have hcount : n.toNat = 2 + data.length := by
        rw [← hdata, List.length_cons, List.length_cons]
        omega
      exact ⟨_, replies_deser_response.2 (deserialize_response hlim haddr hwritten hcount),
        rfl, rfl, rfl, rfl⟩
    | [] | [_] => exact absurd (hdata ▸ hn) (by simp)

/-! ### SER (R145 to R153) -/

theorem serialize_of_le {q : Request} (h : q.data.length ≤ 255) :
    serialize true q = .ok (List.replicate q.preamble 0xFF#8 ++ requestBody q q.data ++
      [xorAll (requestBody q q.data)]) := by
  have hfits : ¬q.data.length > 255 := by omega
  rw [xorAll_eq_xorFold]
  simp [serialize, requestPayload, hfits, preambleRun, preambleSymbol]

theorem serialize_of_gt {q : Request} (h : 255 < q.data.length) :
    serialize true q = .error (.range .payloadTooLong) := by
  simp [serialize, requestPayload, h]

theorem requestBody_eq (q : Request) (payload : Bytes) :
    requestBody q payload = limiterByte q.fmt q.mode ::
      (q.address ++ (commandBytes q.command ++ BitVec.ofNat 8 payload.length :: payload)) := by
  simp [requestBody]

/-- Settles O39: the payload's length decides, and the bytes are the request's body between preamble and fold. -/
theorem serWritesTheRequestFrame : Obligations.SerWritesTheRequestFrame := by
  rintro s q _ _ rfl rfl
  refine ⟨fun hlen => ?_, fun hlen => replies_ser_error.2 (serialize_of_gt hlen)⟩
  rw [replies_ser_bytes, serialize_of_le hlen, requestBody_eq]
  simp [commandBytes, extensionByte]

/-- Settles O40: without its payload a request is written like one that has none, and that one is short enough. -/
theorem serWithoutPayload : Obligations.SerWithoutPayload :=
  fun q => ⟨rfl, _, serialize_of_le (q := { q with data := [] }) (Nat.zero_le 255)⟩

/-! ### What becomes of a serialized request (R154) -/

theorem serialize_ok {q : Request} {xs : Bytes} (h : serialize true q = .ok xs) :
    q.data.length ≤ 255 ∧ xs = List.replicate q.preamble 0xFF#8 ++ requestBody q q.data ++
      [xorAll (requestBody q q.data)] := by
  obtain hlen | hlen := Nat.lt_or_ge 255 q.data.length
  · cases h.symm.trans (serialize_of_gt hlen)
  · exact ⟨hlen, Except.ok.inj (h.symm.trans (serialize_of_le hlen))⟩

/-- Below 254 a command number is its own byte, which is not FE; from 254 up FE comes first (R149). -/
theorem commandWire_commandBytes (n : Nat) : CommandWire (commandBytes n) := by
  unfold commandBytes
  split
  · rename_i hn
    refine .inl ⟨_, fun hfe => ?_, rfl⟩
    have hmod : n % 256 = 254 := by simpa using congrArg BitVec.toNat hfe
    omega
  · exact .inr ⟨_, rfl⟩

theorem payloadCounter_toNat {payload : Bytes} (h : payload.length ≤ 255) :
    (BitVec.ofNat 8 payload.length).toNat = payload.length := by
  rw [BitVec.toNat_ofNat, Nat.mod_eq_of_lt (by omega)]

/-- With any last byte, the bytes of such a request are a frame of the framer's form. -/
theorem framable_request {q : Request} (hpre : 2 ≤ q.preamble)
    (haddr : q.address.length = addressLength q.fmt) (hmode : q.mode ≠ .acknowledge)
    (hlen : q.data.length ≤ 255) (chk : Byte) :
    Framable (List.replicate q.preamble 0xFF#8 ++ requestBody q q.data ++ [chk]) := by
  refine ⟨q.preamble, limiterByte q.fmt q.mode, q.address, commandBytes q.command, _, q.data, chk, hpre,
    (framerLimiter_limiterByte _ _).2 hmode, ?_, commandWire_commandBytes _,
    (payloadCounter_toNat hlen).symm, ?_⟩
  · rw [limiterFormat_limiterByte, haddr]
  · simp [requestBody_eq]

/-- Bytes that every last byte completes to a frame emit nothing themselves: a frame emitted before its last byte would be the
same for all last bytes. -/
theorem Framer.Searching.takes_before_checksum {f : Framer} {front : Bytes} (h : f.Searching 0)
    (hframable : ∀ chk, Framable (front ++ [chk])) (chk : Byte) :
    ∃ g, f.Takes front g [] ∧ g.push chk = (Framer.reset, some (front ++ [chk])) := by
  have hsplit : ∀ c, ((f.pushAll front).1.push c).1 = Framer.reset ∧
      (f.pushAll front).2.reduceOption ++ ((f.pushAll front).1.push c).2.toList = [front ++ [c]] := by
    intro c
    obtain ⟨hreset, hraws⟩ := h.takes_framable (hframable c)
    rw [pushAll_append] at hreset hraws
    rw [List.reduceOption_append] at hraws
    exact ⟨hreset, (takes_of_push rfl).2 ▸ hraws⟩
  have hearly : (f.pushAll front).2.reduceOption = [] := by
    have hcases := fun c => List.append_eq_singleton_iff.1 (hsplit c).2
    obtain ⟨hnil, -⟩ | ⟨hzero, -⟩ := hcases 0#8
    · exact hnil
    · obtain ⟨hnil, -⟩ | ⟨hone, -⟩ := hcases 1#8
      · exact hnil
      · simp [hzero] at hone
  obtain ⟨hreset, hraws⟩ := hsplit chk
  rw [hearly, List.nil_append] at hraws
  exact ⟨_, ⟨rfl, hearly⟩, Prod.ext hreset (by simpa using hraws)⟩

/-- The framer in `S0` that is given such bytes emits the frame with the last of them, and nothing before. -/
theorem deliver_framable {s : State} {front : Bytes} (hreset : s.framer.AtReset) (hissued : s.issued = [])
    (hframable : ∀ chk, Framable (front ++ [chk])) (chk : Byte) :
    ∃ t obs, deliver [front ++ [chk]] s = .next t ∧ t.framer.AtReset ∧
      t.observed = s.observed ++ (obs ++ [⟨.result (.frame (front ++ [chk])), true⟩]) ∧
      framesOf obs = [] := by
  obtain ⟨g, ⟨rfl, hnone⟩, hpush⟩ :=
    (Framer.searching_zero_iff.2 hreset).takes_before_checksum hframable chk
  have hall : s.framer.pushAll (front ++ [chk]) =
      (Framer.reset, (s.framer.pushAll front).2 ++ [some (front ++ [chk])]) := by
    rw [Framer.pushAll_append, Framer.pushAll, hpush, Framer.pushAll]
  refine ⟨_, (s.framer.pushAll front).2.map pushObservation, deliver_eq hissued _, ?_, ?_, ?_⟩
  · simpa [State.pushAll, hall] using Framer.reset_atReset
  · simp [State.pushAll, hall, pushObservation]
  · rw [framesOf_map_pushObservation, hnone]

/-- A serialized request counts its payload, and with fewer than two bytes that is no response code (D12). -/
theorem deserialize_request {q : Request} (haddr : q.address.length = addressLength q.fmt)
    (hlen : q.data.length < 2) :
    deserialize (List.replicate q.preamble 0xFF#8 ++ requestBody q q.data ++
      [xorAll (requestBody q q.data)]) = .error (.malformedFrame .count) := by
  rw [requestBody_eq]
  refine deserialize_wrong_counter ((knownLimiter_iff _).2 ⟨q.fmt, q.mode, rfl⟩) ?_
    (commandWire_commandBytes _) (.inr ?_)
  · rw [limiterFormat_limiterByte, haddr]
  · rwa [payloadCounter_toNat (by omega)]

/-- Settles O41: the fold ends the bytes, every last byte would complete their front to a frame, and the counter is the
payload's length. -/
theorem serializedRequestIsFramed : Obligations.SerializedRequestIsFramed := by
  intro s u q xs h
  obtain ⟨hlen, rfl⟩ := serialize_ok (replies_ser_bytes.1 h)
  refine ⟨?_, fun hpre haddr hmode hreset hissued => ?_, fun haddr hshort => ?_⟩
  · rw [List.append_assoc, List.drop_left' List.length_replicate, xorAll_append_fold]
  · obtain ⟨t, obs, hdeliver, htreset, hobserved, hframes⟩ :=
      deliver_framable hreset hissued (framable_request hpre haddr hmode hlen) (xorAll (requestBody q q.data))
    exact ⟨t, obs, _, hdeliver, htreset, hobserved, hframes, rfl⟩
  · exact replies_deser_error.2 (deserialize_request haddr hshort)

end Sys2Proof.Machine

/-!
The proofs of the statements about the PrimitiveCodec (42_primitive_codec.md): what ENC writes (R171 to R181), what DEC reads
(R172, R173, R184 to R191), and that decoding undoes encoding (R193).
-/

namespace Sys2Proof.Machine

/-! ### What the PrimitiveCodec's operations reply -/

/-- An operation that only delivers an answer replies it. -/
theorem replies_of_exec_eq_reply {i : Instr} {s : State} {a : Answer} (h : exec i s = .next (s.reply a)) :
    Replies i s a := by
  rw [Replies, h, State.reply_eq_observe, State.observe]

/-- DEC of a number of `n` bytes: their low bits as a value of the type (R185 to R188). -/
def decodeFixed {w : Nat} (n : Nat) (mk : BitVec w → Value) : Bytes → Answer :=
  decodeExact n fun xs => .result (.value (mk (BitVec.ofNat w (decodeNumber xs))))

section
variable (s : State) (xs : Bytes)

theorem replies_encText (x : Text) : Replies (.encText (some x)) s (encodeText x) :=
  replies_of_exec_eq_reply rfl
theorem replies_encF32 (v : BitVec 32) : Replies (.encF32 (some v)) s (encodeFixed 4 v.toNat) :=
  replies_of_exec_eq_reply rfl
theorem replies_encF64 (v : BitVec 64) : Replies (.encF64 (some v)) s (encodeFixed 8 v.toNat) :=
  replies_of_exec_eq_reply rfl
theorem replies_encU16 (v : BitVec 16) : Replies (.encU16 (some v)) s (encodeFixed 2 v.toNat) :=
  replies_of_exec_eq_reply rfl
theorem replies_encU32 (v : BitVec 32) : Replies (.encU32 (some v)) s (encodeU32 v) :=
  replies_of_exec_eq_reply rfl
theorem replies_encDate (d : Date) : Replies (.encDate (some d)) s (encodeDate d) :=
  replies_of_exec_eq_reply rfl
theorem replies_encFlags (f : FlagSet) : Replies (.encFlags (some f)) s (encodeFlags f) :=
  replies_of_exec_eq_reply rfl

theorem replies_decText :
    Replies (.decText (some xs)) s (.result (.value (.text (xs.map byteChar)))) :=
  replies_of_exec_eq_reply rfl
theorem replies_decF32 : Replies (.decF32 (some xs)) s (decodeFixed 4 .f32 xs) :=
  replies_of_exec_eq_reply rfl
theorem replies_decF64 : Replies (.decF64 (some xs)) s (decodeFixed 8 .f64 xs) :=
  replies_of_exec_eq_reply rfl
theorem replies_decU16 : Replies (.decU16 (some xs)) s (decodeFixed 2 .u16 xs) :=
  replies_of_exec_eq_reply rfl
theorem replies_decU32 : Replies (.decU32 (some xs)) s (decodeFixed 3 .u32 xs) :=
  replies_of_exec_eq_reply rfl
theorem replies_decDate : Replies (.decDate (some xs)) s (decodeExact 3 decodeDate xs) :=
  replies_of_exec_eq_reply rfl
theorem replies_decFlags : Replies (.decFlags (some xs)) s (decodeExact 1 decodeFlags xs) :=
  replies_of_exec_eq_reply rfl

end

/-! ### Absent operands and unsupported types (R171, R173, R181, R191) -/

/-- Settles O43: every ENC answers the absent operand before its tag or range is looked at. -/
theorem encodeAbsentIsEmpty : Obligations.EncodeAbsentIsEmpty := by
  intro s i tag hi
  simp only [List.mem_cons, List.not_mem_nil, or_false] at hi
  obtain rfl | rfl | rfl | rfl | rfl | rfl | rfl | rfl := hi <;> rfl

/-- Settles O50: every DEC answers the absent operand before its tag or length is looked at. -/
theorem decodeAbsentMissesInput : Obligations.DecodeAbsentMissesInput := by
  intro s i tag hi
  simp only [List.mem_cons, List.not_mem_nil, or_false] at hi
  obtain rfl | rfl | rfl | rfl | rfl | rfl | rfl | rfl := hi <;> rfl

/-- Settles O49: of a present operand ENC.UNSUP and DEC.UNSUP look at nothing. -/
theorem unsupportedTypesRaise : Obligations.UnsupportedTypesRaise :=
  fun _ _ _ _ => ⟨rfl, rfl⟩

/-! ### Texts (R174, R184) -/

section
variable {c : Nat} {b : Byte}

theorem charByte_toNat_of_ascii (h : c < 0x80) : (charByte c).toNat = c := by
  simp only [charByte, h, if_true, BitVec.toNat_ofNat]
  omega

theorem charByte_of_nonascii (h : 0x80 ≤ c) : charByte c = Config.nonasciiEnc c :=
  if_neg (by omega)

theorem byteChar_of_ascii (h : b.toNat < 0x80) : byteChar b = b.toNat :=
  if_pos h

theorem byteChar_of_nonascii (h : 0x80 ≤ b.toNat) : byteChar b = Config.nonasciiDec b :=
  if_neg (by omega)

theorem byteChar_charByte (h : c < 0x80) : byteChar (charByte c) = c := by
  rw [byteChar_of_ascii, charByte_toNat_of_ascii h]
  rwa [charByte_toNat_of_ascii h]

end

/-- Settles O44: the bytes are the characters', position by position. -/
theorem encodeTextByteForCharacter : Obligations.EncodeTextByteForCharacter := by
  intro s x
  refine ⟨x.map charByte, replies_encText s x, List.length_map _, fun k c hc => ?_⟩
  exact ⟨charByte c, by simp [hc], charByte_toNat_of_ascii, charByte_of_nonascii⟩

/-- Settles O52: the characters are the bytes', position by position. -/
theorem decodeTextCharacterForByte : Obligations.DecodeTextCharacterForByte := by
  intro s xs
  refine ⟨xs.map byteChar, replies_decText s xs, List.length_map _, fun k b hb => ?_⟩
  exact ⟨byteChar b, by simp [hb], byteChar_of_ascii, byteChar_of_nonascii⟩

/-! ### Numbers (R175 to R178, R185 to R188) -/

theorem leBytes_eq_map_range (n v : Nat) :
    leBytes n v = (List.range n).map fun k => BitVec.ofNat 8 (v >>> (8 * k)) := by
  induction n generalizing v with
  | zero => rfl
  | succ n ih =>
    have hshift (k : Nat) : (v / 256) >>> (8 * k) = v >>> (8 * (k + 1)) := by
      rw [Nat.mul_succ, Nat.add_comm, Nat.shiftRight_add, Nat.shiftRight_eq_div_pow v 8]
    simp [leBytes, ih, List.range_succ_eq_map, hshift]

/-- The bytes ENC writes of a bit pattern are its octets, the lowest first (D3). -/
theorem encodeFixed_toNat {w : Nat} (n : Nat) (v : BitVec w) :
    encodeFixed n v.toNat =
      .result (.bytes ((List.range n).map fun k => v.extractLsb' (8 * k) 8)) := by
  have hbytes : toBytes wireOrder n v.toNat = leBytes n v.toNat := rfl
  rw [encodeFixed, hbytes, leBytes_eq_map_range]
  rfl

/-- Settles O45: the octets of each width, written out. -/
theorem encodeFixedWidthBytes : Obligations.EncodeFixedWidthBytes := by
  refine ⟨fun s v => ?_, fun s v => ?_, fun s v => ?_⟩
  · exact encodeFixed_toNat 4 v ▸ replies_encF32 s v
  · exact encodeFixed_toNat 8 v ▸ replies_encF64 s v
  · exact encodeFixed_toNat 2 v ▸ replies_encU16 s v

theorem encodeU32_of_le {v : BitVec 32} (h : v.toNat ≤ 16777215) : encodeU32 v = encodeFixed 3 v.toNat :=
  if_neg (by omega)

theorem encodeU32_of_gt {v : BitVec 32} (h : 16777215 < v.toNat) :
    encodeU32 v = .error (.range .outOfRange) :=
  if_pos h

/-- Settles O46: up to the bound the three low octets, and the error above it. -/
theorem encodeU32Clamped : Obligations.EncodeU32Clamped := by
  intro s v
  have hreply := replies_encU32 s v
  constructor
  · intro h
    rw [encodeU32_of_le h, encodeFixed_toNat] at hreply
    exact hreply
  · intro h
    rwa [encodeU32_of_gt h] at hreply

/-- A further byte in front of the bytes of a number is the low octet of its bits. -/
theorem ofNat_leValue_cons (w : Nat) (b : Byte) (bs : Bytes) :
    BitVec.ofNat (w + 8) (leValue (b :: bs)) = BitVec.ofNat w (leValue bs) ++ b := by
  apply BitVec.eq_of_toNat_eq
  have hb := b.isLt
  have hlow : (b.toNat + 256 * leValue bs) % 2 ^ 8 = b.toNat := by omega
  have hhigh : (b.toNat + 256 * leValue bs) / 2 ^ 8 = leValue bs := by omega
  rw [BitVec.toNat_append, BitVec.toNat_ofNat, BitVec.toNat_ofNat, ← Nat.shiftLeft_add_eq_or_of_lt hb,
    Nat.shiftLeft_eq, leValue, pow_add, Nat.mul_comm (2 ^ w), Nat.mod_mul, hlow, hhigh]
  omega

theorem ofNat_leValue_singleton (b : Byte) : BitVec.ofNat 8 (leValue [b]) = b := by
  simp [leValue]

theorem decodeExact_of_length {n : Nat} {dec : Bytes → Answer} {xs : Bytes} (h : xs.length = n) :
    decodeExact n dec xs = dec xs :=
  if_neg (not_not.2 h)

theorem decodeExact_of_length_ne {n : Nat} {dec : Bytes → Answer} {xs : Bytes} (h : xs.length ≠ n) :
    decodeExact n dec xs = .error (.range .wrongLength) :=
  if_pos h

theorem decodeFixed_of_length {w n : Nat} {mk : BitVec w → Value} {xs : Bytes} (h : xs.length = n) :
    decodeFixed n mk xs = .result (.value (mk (BitVec.ofNat w (leValue xs)))) :=
  decodeExact_of_length h

theorem Replies.wrongLength {i : Instr} {s : State} {n : Nat} {dec : Bytes → Answer} {xs : Bytes}
    (h : Replies i s (decodeExact n dec xs)) (hlen : xs.length ≠ n) :
    Replies i s (.error (.range .wrongLength)) :=
  decodeExact_of_length_ne hlen ▸ h

/-- Settles O51: each fixed-width DEC looks at the length first. -/
theorem decodeWrongLengthRaises : Obligations.DecodeWrongLengthRaises :=
  fun s xs =>
    ⟨(replies_decF32 s xs).wrongLength, (replies_decF64 s xs).wrongLength,
      (replies_decU16 s xs).wrongLength, (replies_decU32 s xs).wrongLength,
      (replies_decDate s xs).wrongLength, (replies_decFlags s xs).wrongLength⟩

/-- Settles O53: byte after byte goes in front as the low octet; the three bytes of a U32 leave its top octet 0. -/
theorem decodeFixedWidthValues : Obligations.DecodeFixedWidthValues := by
  refine ⟨fun s b0 b1 b2 b3 => ?_, fun s b0 b1 b2 b3 b4 b5 b6 b7 => ?_, fun s b0 b1 => ?_,
    fun s b0 b1 b2 => ?_⟩
  · have hreply := replies_decF32 s [b0, b1, b2, b3]
    rw [decodeFixed_of_length (n := 4) rfl, ofNat_leValue_cons 24, ofNat_leValue_cons 16, ofNat_leValue_cons 8,
      ofNat_leValue_singleton] at hreply
    exact hreply
  · have hreply := replies_decF64 s [b0, b1, b2, b3, b4, b5, b6, b7]
    rw [decodeFixed_of_length (n := 8) rfl, ofNat_leValue_cons 56, ofNat_leValue_cons 48, ofNat_leValue_cons 40,
      ofNat_leValue_cons 32, ofNat_leValue_cons 24, ofNat_leValue_cons 16, ofNat_leValue_cons 8,
      ofNat_leValue_singleton] at hreply
    exact hreply
  · have hreply := replies_decU16 s [b0, b1]
    rw [decodeFixed_of_length (n := 2) rfl, ofNat_leValue_cons 8, ofNat_leValue_singleton] at hreply
    exact hreply
  · have hreply := replies_decU32 s [b0, b1, b2]
    rw [decodeFixed_of_length (n := 3) rfl, ofNat_leValue_cons 24, ofNat_leValue_cons 16, ofNat_leValue_cons 8]
      at hreply
    exact hreply

/-! ### Dates (R179, R189) -/

/-- The low byte of an integer is its non-negative remainder by 256 (D19). -/
theorem ofInt_byte_toNat (i : Int) : ((BitVec.ofInt 8 i).toNat : Int) = i % 256 := by
  rw [BitVec.toNat_ofInt]
  omega

theorem dateBytes_of_valid {d : Date} (h : validDate d = true) :
    dateBytes d = (BitVec.ofInt 8 d.day, BitVec.ofInt 8 d.month, BitVec.ofInt 8 (d.year - 1900)) :=
  if_pos h

/-- Settles O47: the bytes of a date are the low bytes of its numbers; of any other triple nothing is said. -/
theorem encodeDateTruncates : Obligations.EncodeDateTruncates := by
  intro s d
  refine ⟨_, _, _, replies_encDate s d, fun h => ?_⟩
  rw [dateBytes_of_valid h]
  exact ⟨ofInt_byte_toNat _, ofInt_byte_toNat _, ofInt_byte_toNat _⟩

theorem validDate_iff (d : Date) : validDate d = true ↔
    1 ≤ d.month ∧ d.month ≤ 12 ∧ 1 ≤ d.day ∧ d.day ≤ daysInMonth d.month d.year := by
  simp [validDate, and_assoc]

theorem isLeapYear_natCast (year : Nat) :
    isLeapYear year = true ↔ year % 4 = 0 ∧ year % 100 ≠ 0 ∨ year % 400 = 0 := by
  simp only [isLeapYear, Bool.or_eq_true, Bool.and_eq_true, beq_iff_eq, bne_iff_ne]
  omega

/-- The length of a month 1..12, its number and its year being natural numbers (R189). -/
def monthDays (month year : Nat) : Nat :=
  if month = 2 then (if year % 4 = 0 ∧ year % 100 ≠ 0 ∨ year % 400 = 0 then 29 else 28)
  else if month ∈ [4, 6, 9, 11] then 30 else 31

theorem daysInMonth_natCast {month : Nat} (year : Nat) (h : 1 ≤ month ∧ month ≤ 12) :
    daysInMonth month year = monthDays month year := by
  have hrange : (1 : Int) ≤ month ∧ (month : Int) ≤ 12 := by omega
  simp only [daysInMonth, monthDays, isLeapYear_natCast, hrange, and_self, if_true, List.mem_cons,
    List.not_mem_nil, or_false]
  norm_cast

/-- A triple of natural numbers is a date if its month is 1..12 and its day one of the month's. -/
theorem validDate_natCast (day month year : Nat) : validDate ⟨day, month, year⟩ = true ↔
    1 ≤ month ∧ month ≤ 12 ∧ 1 ≤ day ∧ day ≤ monthDays month year := by
  simp only [validDate_iff]
  by_cases h : 1 ≤ month ∧ month ≤ 12
  · rw [daysInMonth_natCast year h]
    omega
  · omega

theorem daysInMonth_le (month year : Int) : daysInMonth month year ≤ 31 := by
  unfold daysInMonth
  split_ifs <;> decide

theorem replies_decDate_bytes (s : State) (d m y : Byte) :
    Replies (.decDate (some [d, m, y])) s (decodeDate [d, m, y]) :=
  replies_decDate s [d, m, y]

theorem decodeDate_of_valid {d m y : Byte} (h : validDate (dateOf d m y) = true) :
    decodeDate [d, m, y] = .result (.value (.date (dateOf d m y))) :=
  if_pos h

theorem decodeDate_of_not_valid {d m y : Byte} (h : validDate (dateOf d m y) ≠ true) :
    decodeDate [d, m, y] = .error (.range .invalidDate) :=
  if_neg h

theorem validDate_dateOf (d m y : Byte) : validDate (dateOf d m y) = true ↔
    1 ≤ m.toNat ∧ m.toNat ≤ 12 ∧ 1 ≤ d.toNat ∧ d.toNat ≤ monthDays m.toNat (y.toNat + 1900) :=
  validDate_natCast d.toNat m.toNat (y.toNat + 1900)

/-- Settles O54: on three bytes the statement's calendar is the model's. -/
theorem decodeDateChecked : Obligations.DecodeDateChecked := by
  rintro s d m y year days rfl rfl
  have hreply := replies_decDate_bytes s d m y
  constructor
  · intro h
    rwa [decodeDate_of_valid ((validDate_dateOf d m y).2 h)] at hreply
  · intro h
    rwa [decodeDate_of_not_valid (mt (validDate_dateOf d m y).1 h)] at hreply

/-- A date of the years 1900 to 2155 is the date of its bytes: no number loses more than its low byte (R193). -/
theorem dateOf_dateBytes {d : Date} (h : validDate d = true) (hfirst : 1900 ≤ d.year) (hlast : d.year ≤ 2155) :
    dateOf (dateBytes d).1 (dateBytes d).2.1 (dateBytes d).2.2 = d := by
  obtain ⟨hmonth, hmonth', hday, hday'⟩ := (validDate_iff d).1 h
  have hlong := daysInMonth_le d.month d.year
  obtain ⟨day, month, year⟩ := d
  simp only [dateBytes_of_valid h, dateOf, ofInt_byte_toNat, Date.mk.injEq]
  simp only at *
  omega

/-! ### Flags (R180, R190) -/

theorem flagByte_getLsbD {k : Nat} (f : FlagSet) (h : k < 8) : (flagByte f).getLsbD k = f.getD k false := by
  rw [flagByte, BitVec.getLsbD_ofNat, flagSum_testBit]
  simp [h]

theorem byteFlags_length (b : Byte) : (byteFlags b).length = 8 := by
  simp [byteFlags]

theorem byteFlags_getElem? {k : Nat} (b : Byte) (h : k < 8) : (byteFlags b)[k]? = some (b.getLsbD k) := by
  simp [byteFlags, h]

theorem byteFlags_flagByte {f : FlagSet} (h : f.length = 8) : byteFlags (flagByte f) = f := by
  refine List.ext_getElem? fun k => ?_
  obtain hk | hk := lt_or_ge k 8
  · rw [byteFlags_getElem? _ hk, flagByte_getLsbD f hk]
    simp [h, hk]
  · rw [List.getElem?_eq_none (byteFlags_length _ ▸ hk), List.getElem?_eq_none (h ▸ hk)]

theorem encodeFlags_of_le {f : FlagSet} (h : f.length ≤ 8) : encodeFlags f = .result (.bytes [flagByte f]) :=
  if_neg (by omega)

theorem encodeFlags_of_gt {f : FlagSet} (h : 8 < f.length) :
    encodeFlags f = .error (.range .tooManyFlags) :=
  if_pos h

/-- Settles O48: the byte is the sum of the flags' powers of two, whose bits are the flags. -/
theorem encodeFlagBits : Obligations.EncodeFlagBits := by
  intro s f
  have hreply := replies_encFlags s f
  constructor
  · intro h
    rw [encodeFlags_of_le h] at hreply
    exact ⟨flagByte f, hreply, fun _ => flagByte_getLsbD f⟩
  · intro h
    rwa [encodeFlags_of_gt h] at hreply

theorem replies_decFlags_byte (s : State) (b : Byte) :
    Replies (.decFlags (some [b])) s (.result (.value (.flags (byteFlags b)))) :=
  replies_decFlags s [b]

/-- Settles O55: the flags are the bits of the byte, in order. -/
theorem decodeFlagBits : Obligations.DecodeFlagBits :=
  fun s b => ⟨byteFlags b, replies_decFlags_byte s b, byteFlags_length b, fun _ => byteFlags_getElem? b⟩

/-! ### Decoding what ENC wrote (R193) -/

/-- DEC of a number's bytes gives the number, if it is one of as many bytes. -/
theorem decodeFixed_toBytes {w n : Nat} (mk : BitVec w → Value) {v : BitVec w} (h : v.toNat < 256 ^ n) :
    decodeFixed n mk (toBytes wireOrder n v.toNat) = .result (.value (mk v)) := by
  rw [decodeFixed, decodeExact_of_length (toBytes_length _ _ _), decodeNumber, fromBytes_toBytes,
    Nat.mod_eq_of_lt h, BitVec.ofNat_toNat, BitVec.setWidth_eq]

section
variable {s u : State} {i : Instr} {xs : Bytes}

/-- In one state an operation replies one byte sequence. -/
theorem Replies.bytes_unique {ys : Bytes} (h : Replies i s (.result (.bytes ys)))
    (h' : Replies i s (.result (.bytes xs))) : ys = xs := by
  simpa using h.answer_unique h'

theorem decode_number_of_replies {w n : Nat} {mk : BitVec w → Value} {v : BitVec w} {j : Bytes → Instr}
    (hv : v.toNat < 256 ^ n) (hdec : ∀ ys, Replies (j ys) u (decodeFixed n mk ys))
    (henc : Replies i s (encodeFixed n v.toNat)) (h : Replies i s (.result (.bytes xs))) :
    Replies (j xs) u (.result (.value (mk v))) := by
  obtain rfl := Replies.bytes_unique henc h
  exact decodeFixed_toBytes mk hv ▸ hdec _

/-- ENC.U32 writes bytes only of a number they hold (R178). -/
theorem decode_u32_of_replies {v : BitVec 32} (h : Replies (.encU32 (some v)) s (.result (.bytes xs))) :
    Replies (.decU32 (some xs)) u (.result (.value (.u32 v))) := by
  have hreply := replies_encU32 s v
  obtain hle | hgt := le_or_gt v.toNat 16777215
  · rw [encodeU32_of_le hle] at hreply
    exact decode_number_of_replies (by omega) (replies_decU32 u) hreply h
  · rw [encodeU32_of_gt hgt] at hreply
    exact absurd (hreply.answer_unique h) nofun

theorem decode_date_of_replies {d : Date} (hd : validDate d = true) (hfirst : 1900 ≤ d.year)
    (hlast : d.year ≤ 2155) (h : Replies (.encDate (some d)) s (.result (.bytes xs))) :
    Replies (.decDate (some xs)) u (.result (.value (.date d))) := by
  obtain rfl := (replies_encDate s d).bytes_unique h
  have hround := dateOf_dateBytes hd hfirst hlast
  have hreply := replies_decDate_bytes u (dateBytes d).1 (dateBytes d).2.1 (dateBytes d).2.2
  rwa [decodeDate_of_valid (hround.symm ▸ hd), hround] at hreply

theorem decode_flags_of_replies {f : FlagSet} (hf : f.length = 8)
    (h : Replies (.encFlags (some f)) s (.result (.bytes xs))) :
    Replies (.decFlags (some xs)) u (.result (.value (.flags f))) := by
  have henc := replies_encFlags s f
  rw [encodeFlags_of_le hf.le] at henc
  obtain rfl := henc.bytes_unique h
  have hdec := replies_decFlags_byte u (flagByte f)
  rwa [byteFlags_flagByte hf] at hdec

theorem decode_text_of_replies {x : Text} (hx : ∀ c ∈ x, c < 0x80)
    (h : Replies (.encText (some x)) s (.result (.bytes xs))) :
    Replies (.decText (some xs)) u (.result (.value (.text x))) := by
  obtain rfl := (replies_encText s x).bytes_unique h
  have hround : (x.map charByte).map byteChar = x := calc
    _ = x.map (byteChar ∘ charByte) := List.map_map
    _ = x.map id := List.map_congr_left fun c hc => byteChar_charByte (hx c hc)
    _ = x := List.map_id x
  have hdec := replies_decText u (x.map charByte)
  rwa [hround] at hdec

end

/-- Settles O57: type by type, what DEC reads of the bytes ENC replied. -/
theorem primitivesRoundTrip : Obligations.PrimitivesRoundTrip := by
  intro s u xs
  refine ⟨fun v => ?f32, fun v => ?f64, fun v => ?u16, fun _ => decode_u32_of_replies,
    fun _ => decode_date_of_replies, fun _ => decode_flags_of_replies, fun _ => decode_text_of_replies⟩
  case f32 => exact decode_number_of_replies (by omega) (replies_decF32 u) (replies_encF32 s v)
  case f64 => exact decode_number_of_replies (by omega) (replies_decF64 u) (replies_encF64 s v)
  case u16 => exact decode_number_of_replies (by omega) (replies_decU16 u) (replies_encU16 s v)

end Sys2Proof.Machine

/-!
Errors (60_exceptions.md): which operation raises which.
-/

namespace Sys2Proof.Machine

/-- No row of R221's table holds Transport (R230). -/
theorem MayRaise.ne_transport {i : Instr} {e : OpError} (h : MayRaise i e) : e ≠ .transport := by
  rintro rfl
  cases i <;> simp [MayRaise] at h

/-- FPUSH and FRESET observe results, so an observed error is a codec operation's. -/
theorem mayRaise_of_observed_error {i : Instr} {s t : State} {e : OpError} {ready : Bool}
    (h : exec i s = .next t) (ho : t.observed = s.observed ++ [⟨.error e, ready⟩]) : MayRaise i e := by
  obtain ⟨b, -, hpush⟩ | ⟨-, hreset⟩ | ⟨-, -, a, hwithin, hreply⟩ := observation_of_exec h ho
  · obtain ⟨r, hr⟩ := pushObservation_answer_isResult (s.framer.push b).2
    rw [← hpush] at hr
    cases hr
  · cases hreset
  · cases hreply
    exact hwithin

/-- Settles O31: what an operation is observed to raise stands in its row of R221's table, and no row holds Transport. -/
theorem errorsOnlyAsTheTableSays : Obligations.ErrorsOnlyAsTheTableSays := by
  intro i s t e ready h ho
  have hrow : MayRaise i e := mayRaise_of_observed_error h ho
  exact ⟨hrow, hrow.ne_transport⟩

end Sys2Proof.Machine
